-- ==== Sys2Proof/Word.lean ====
section
/-! DEFINITION. The widths the spec gives its values (00_scope.md R6, R11; 30_encoding.md R71): every value is an
unsigned number of a stated width. -/

namespace Sys2Proof

/-- An 8-bit value: a general register, a timer, a byte of memory, the field `kk`. -/
abbrev Byte := BitVec 8

/-- A 16-bit value: PC, I, a return address, an instruction word. -/
abbrev Word := BitVec 16

/-- A 4-bit value: a register index `x` or `y`, the field `n`, a key code. -/
abbrev Nibble := BitVec 4

/-- A 12-bit value: the field `nnn`. -/
abbrev Addr := BitVec 12

end Sys2Proof
end

