-- ==== Sys2Proof/Config.lean ====
section
/-! DEFINITION. What is fixed for one machine: the sizes of 00_scope.md R6 and R7, the type of the construction
parameters the source leaves open (R7, R8), and the free values (R16, D22). -/

namespace Sys2Proof

/-- The quirk record of 00_scope.md R8: six booleans fixed at construction. -/
structure Quirks where
  /-- draw-wait: Dxyn waits for a refresh (42_display.md R161) -/
  dw      : Bool
  /-- 8xy1, 8xy2 and 8xy3 force VF to 0 (41_alu.md R126) -/
  vfreset : Bool
  /-- Fx55 and Fx65 advance I (44_index_timer_memory.md R187, R188) -/
  meminc  : Bool
  /-- sprites clip at the right and bottom edges instead of wrapping (42_display.md R158) -/
  clip    : Bool
  /-- 8xy6 and 8xyE shift Vx in place (41_alu.md R129, R131) -/
  shiftx  : Bool
  /-- Bnnn adds Vx instead of V0 (40_flow.md R104) -/
  jumpx   : Bool
  deriving DecidableEq, Repr

/-- The number of font bytes, 16 glyphs of five rows (20_memory.md R56, D2). -/
abbrev Config.fontSize : Nat := 80

/-- The parameters that 00_scope.md R7 leaves OPEN (decisions D14, D15, D19), and the font, which 20_memory.md R56 has a model take
as one (D3). They are plain data in `State` (log entry 1), so a statement about every state ranges over every choice of them. -/
structure Params where
  /-- `FONT`: the bytes resident from `FONT_BASE` on at construction (20_memory.md R56, D3) -/
  font          : Vector Byte Config.fontSize
  quirks        : Quirks
  /-- `STACK_DEPTH`: `some n` for a capacity of `n` entries, `none` for unbounded -/
  stackDepth    : Option Nat
  /-- `SKIP_REG_STRICT` (30_encoding.md R81) -/
  skipRegStrict : Bool
  deriving DecidableEq, Repr

/-- `STACK_DEPTH` is a POSITIVE natural number or unbounded (00_scope.md R7). -/
abbrev Params.Sane (p : Params) : Prop := p.stackDepth ≠ some 0

/-- `DISPLAY_W` (00_scope.md R7, D1). -/
abbrev Config.displayW : Nat := 64

/-- `DISPLAY_H` (00_scope.md R7, D1). -/
abbrev Config.displayH : Nat := 32

/-- The size of memory, 4096 bytes (00_scope.md R6). -/
abbrev Config.memSize : Nat := 0x1000

/-- FREE VALUE. The oracle's bytes, `draw_byte()` of 41_alu.md R126 and R132: no body, so nothing can be proved of any
one of them. The argument is how many values were drawn before (log entry 2). -/
opaque Config.freeByte : Nat → Byte

/-- FREE VALUE. The oracle's booleans, `draw_bool()` of 43_keyboard.md R170 (log entry 2). -/
opaque Config.freeBool : Nat → Bool

end Sys2Proof
end

