-- ==== Sys2Proof/Machine/Params.lean ====
section
/-! DEFINITION. The values of the parameters of 00_scope.md R7, the font of 20_memory.md R56 among them, and the construction
parameters `State.reset` is built with. -/

namespace Sys2Proof.Machine

/-- `FONT_BASE` (00_scope.md R7, D2). -/
def fontBase : Nat := 0x050

/-- `GLYPH_SIZE` (00_scope.md R7, D2). -/
def glyphSize : Nat := 5

/-- The table of 20_memory.md R56: glyphs 0 to F, five rows each. -/
def fontTable : List Byte :=
  [0xF0, 0x90, 0x90, 0x90, 0xF0,  0x20, 0x60, 0x20, 0x20, 0x70] ++
  [0xF0, 0x10, 0xF0, 0x80, 0xF0,  0xF0, 0x10, 0xF0, 0x10, 0xF0] ++
  [0x90, 0x90, 0xF0, 0x10, 0x10,  0xF0, 0x80, 0xF0, 0x10, 0xF0] ++
  [0xF0, 0x80, 0xF0, 0x90, 0xF0,  0xF0, 0x10, 0x20, 0x40, 0x40] ++
  [0xF0, 0x90, 0xF0, 0x90, 0xF0,  0xF0, 0x90, 0xF0, 0x10, 0xF0] ++
  [0xF0, 0x90, 0xF0, 0x90, 0x90,  0xE0, 0x90, 0xE0, 0x90, 0xE0] ++
  [0xF0, 0x80, 0x80, 0x80, 0xF0,  0xE0, 0x90, 0x90, 0x90, 0xE0] ++
  [0xF0, 0x80, 0xF0, 0x80, 0xF0,  0xF0, 0x80, 0xF0, 0x80, 0x80]

/-- `FONT`: the value R56 gives that parameter (D3). -/
def font : Vector Byte Config.fontSize := ⟨fontTable.toArray, rfl⟩

/-- Where a program is loaded and where the first fetch is (00_scope.md R6, 70_reset_and_hazards.md R236). -/
def programBase : Nat := 0x200

/-- `ROM_MAX` (00_scope.md R7, D21). -/
def romMax : Nat := 0xE00

/-- DESIGN CHOICE, unsafe (log entry 1): the quirks `State.reset` is built with. The spec gives no default (R8, D19); these
are the values 95_test_vectors.md takes where a vector names none. -/
def resetQuirks : Quirks :=
  { dw := false, vfreset := true, meminc := false, clip := false, shiftx := false, jumpx := false }

/-- The parameters `State.reset` is built with: the font of R56, and for the OPEN ones, again, the values of 95_test_vectors.md
(DESIGN CHOICE, unsafe, log entry 1). -/
def resetParams : Params :=
  { font := font, quirks := resetQuirks, stackDepth := none, skipRegStrict := true }

end Sys2Proof.Machine
end

