-- ==== Sys2Proof/Syntax.lean ====
section
/-! DEFINITION. The instructions: one constructor per row of spec/opcode_table.json (30_encoding.md R78), with the operand
fields of R71 at their widths, so a register index is in range by construction (R83). -/

namespace Sys2Proof

inductive Instr where
  /-- 00E0 CLS -/
  | cls
  /-- 00EE RET -/
  | ret
  /-- 1nnn JP nnn -/
  | jp (nnn : Addr)
  /-- 2nnn CALL nnn -/
  | call (nnn : Addr)
  /-- 3xkk SE Vx, kk -/
  | seImm (x : Nibble) (kk : Byte)
  /-- 4xkk SNE Vx, kk -/
  | sneImm (x : Nibble) (kk : Byte)
  /-- 5xy0 SE Vx, Vy -/
  | seReg (x y : Nibble)
  /-- 6xkk LD Vx, kk -/
  | ldImm (x : Nibble) (kk : Byte)
  /-- 7xkk ADD Vx, kk -/
  | addImm (x : Nibble) (kk : Byte)
  /-- 8xy0 LD Vx, Vy -/
  | ldReg (x y : Nibble)
  /-- 8xy1 OR Vx, Vy -/
  | orReg (x y : Nibble)
  /-- 8xy2 AND Vx, Vy -/
  | andReg (x y : Nibble)
  /-- 8xy3 XOR Vx, Vy -/
  | xorReg (x y : Nibble)
  /-- 8xy4 ADD Vx, Vy -/
  | addReg (x y : Nibble)
  /-- 8xy5 SUB Vx, Vy -/
  | subReg (x y : Nibble)
  /-- 8xy6 SHR Vx, Vy -/
  | shrReg (x y : Nibble)
  /-- 8xy7 SUBN Vx, Vy -/
  | subnReg (x y : Nibble)
  /-- 8xyE SHL Vx, Vy -/
  | shlReg (x y : Nibble)
  /-- 9xy0 SNE Vx, Vy -/
  | sneReg (x y : Nibble)
  /-- Annn LD I, nnn -/
  | ldI (nnn : Addr)
  /-- Bnnn JP V0, nnn -/
  | jpV0 (nnn : Addr)
  /-- Cxkk RND Vx, kk -/
  | rnd (x : Nibble) (kk : Byte)
  /-- Dxyn DRW Vx, Vy, n -/
  | drw (x y n : Nibble)
  /-- Ex9E SKP Vx -/
  | skp (x : Nibble)
  /-- ExA1 SKNP Vx -/
  | sknp (x : Nibble)
  /-- Fx07 LD Vx, DT -/
  | ldVxDt (x : Nibble)
  /-- Fx0A LD Vx, K -/
  | ldVxK (x : Nibble)
  /-- Fx15 LD DT, Vx -/
  | ldDtVx (x : Nibble)
  /-- Fx18 LD ST, Vx -/
  | ldStVx (x : Nibble)
  /-- Fx1E ADD I, Vx -/
  | addIVx (x : Nibble)
  /-- Fx29 LD F, Vx -/
  | ldFVx (x : Nibble)
  /-- Fx33 LD B, Vx -/
  | ldBVx (x : Nibble)
  /-- Fx55 LD [I], Vx -/
  | ldMemVx (x : Nibble)
  /-- Fx65 LD Vx, [I] -/
  | ldVxMem (x : Nibble)
  /-- Any other word, `UNKNOWN` (R79): it keeps the word, so that decoding loses nothing (log entry 9). -/
  | unknown (w : Word)
  deriving DecidableEq, Repr

end Sys2Proof
end

