-- ==== Sys2Proof/WellFormed.lean ====
section
/-! DEFINITION. Which instruction terms the machine can decode to. Operand fields are in range by construction
(30_encoding.md R83), so the one check is that `unknown w` holds a word of the unknown space of R80. -/

namespace Sys2Proof

/-- The unknown space, class by class, as the table of 30_encoding.md R80 lists it. -/
def WellFormed.unknownWord (skipRegStrict : Bool) (w : Word) : Bool :=
  let n := w.extractLsb' 0 4
  let kk := w.extractLsb' 0 8
  match w.extractLsb' 12 4 with
  | 0x0#4 => w != 0x00E0#16 && w != 0x00EE#16
  | 0x5#4 | 0x9#4 => skipRegStrict && n != 0#4
  | 0x8#4 => [0x8#4, 0x9#4, 0xA#4, 0xB#4, 0xC#4, 0xD#4, 0xF#4].contains n
  | 0xE#4 => ! [0x9E#8, 0xA1#8].contains kk
  | 0xF#4 => ! [0x07#8, 0x0A#8, 0x15#8, 0x18#8, 0x1E#8, 0x29#8, 0x33#8, 0x55#8, 0x65#8].contains kk
  | _ => false

/-- An instruction is well formed when some word decodes to it. -/
def Instr.wellFormed (skipRegStrict : Bool) : Instr → Bool
  | .unknown w => WellFormed.unknownWord skipRegStrict w
  | .cls | .ret => true
  | .jp _ | .call _ | .ldI _ | .jpV0 _ => true
  | .seImm _ _ | .sneImm _ _ | .ldImm _ _ | .addImm _ _ | .rnd _ _ => true
  | .seReg _ _ | .sneReg _ _ | .ldReg _ _ | .orReg _ _ | .andReg _ _ | .xorReg _ _ => true
  | .addReg _ _ | .subReg _ _ | .shrReg _ _ | .subnReg _ _ | .shlReg _ _ => true
  | .drw _ _ _ => true
  | .skp _ | .sknp _ | .ldVxDt _ | .ldVxK _ | .ldDtVx _ | .ldStVx _ => true
  | .addIVx _ | .ldFVx _ | .ldBVx _ | .ldMemVx _ | .ldVxMem _ => true

end Sys2Proof
end

