-- ==== Sys2Proof/Decode.lean ====
section
/-! DEFINITION. Decoding and encoding of instruction words (30_encoding.md R70 to R83). Decoding a word is total (R83); a
list of bytes is refused, by name, only when it holds less than one instruction. -/

namespace Sys2Proof

/-- The opcode class `c` = w[15:12] (R71). -/
def Field.c (w : Word) : Nibble := w.extractLsb' 12 4

/-- The first register index `x` = w[11:8] (R71). -/
def Field.x (w : Word) : Nibble := w.extractLsb' 8 4

/-- The second register index `y` = w[7:4] (R71). -/
def Field.y (w : Word) : Nibble := w.extractLsb' 4 4

/-- The nibble `n` = w[3:0] (R71). -/
def Field.n (w : Word) : Nibble := w.extractLsb' 0 4

/-- The byte `kk` = w[7:0] (R71). -/
def Field.kk (w : Word) : Byte := w.extractLsb' 0 8

/-- The address `nnn` = w[11:0] (R71). -/
def Field.nnn (w : Word) : Addr := w.extractLsb' 0 12

/-- Class 0x0: only the whole words 0x00E0 and 0x00EE (R77, D31). -/
def decodeClass0 (w : Word) : Instr :=
  if w = 0x00E0#16 then .cls
  else if w = 0x00EE#16 then .ret
  else .unknown w

/-- Class 0x8, by `n` (R77). -/
def decodeClass8 (w : Word) : Instr :=
  match Field.n w with
  | 0x0#4 => .ldReg (Field.x w) (Field.y w)
  | 0x1#4 => .orReg (Field.x w) (Field.y w)
  | 0x2#4 => .andReg (Field.x w) (Field.y w)
  | 0x3#4 => .xorReg (Field.x w) (Field.y w)
  | 0x4#4 => .addReg (Field.x w) (Field.y w)
  | 0x5#4 => .subReg (Field.x w) (Field.y w)
  | 0x6#4 => .shrReg (Field.x w) (Field.y w)
  | 0x7#4 => .subnReg (Field.x w) (Field.y w)
  | 0xE#4 => .shlReg (Field.x w) (Field.y w)
  | _ => .unknown w

/-- Class 0xE, by `kk` (R77). -/
def decodeClassE (w : Word) : Instr :=
  match Field.kk w with
  | 0x9E#8 => .skp (Field.x w)
  | 0xA1#8 => .sknp (Field.x w)
  | _ => .unknown w

/-- Class 0xF, by `kk` (R77). -/
def decodeClassF (w : Word) : Instr :=
  match Field.kk w with
  | 0x07#8 => .ldVxDt (Field.x w)
  | 0x0A#8 => .ldVxK (Field.x w)
  | 0x15#8 => .ldDtVx (Field.x w)
  | 0x18#8 => .ldStVx (Field.x w)
  | 0x1E#8 => .addIVx (Field.x w)
  | 0x29#8 => .ldFVx (Field.x w)
  | 0x33#8 => .ldBVx (Field.x w)
  | 0x55#8 => .ldMemVx (Field.x w)
  | 0x65#8 => .ldVxMem (Field.x w)
  | _ => .unknown w

/-- `Decode(w)` of R76 and R77; the parameter is `SKIP_REG_STRICT` (R81, D14). -/
def decode (skipRegStrict : Bool) (w : Word) : Instr :=
  match Field.c w with
  | 0x0#4 => decodeClass0 w
  | 0x1#4 => .jp (Field.nnn w)
  | 0x2#4 => .call (Field.nnn w)
  | 0x3#4 => .seImm (Field.x w) (Field.kk w)
  | 0x4#4 => .sneImm (Field.x w) (Field.kk w)
  | 0x5#4 => if Field.n w = 0#4 ∨ skipRegStrict = false then .seReg (Field.x w) (Field.y w) else .unknown w
  | 0x6#4 => .ldImm (Field.x w) (Field.kk w)
  | 0x7#4 => .addImm (Field.x w) (Field.kk w)
  | 0x8#4 => decodeClass8 w
  | 0x9#4 => if Field.n w = 0#4 ∨ skipRegStrict = false then .sneReg (Field.x w) (Field.y w) else .unknown w
  | 0xA#4 => .ldI (Field.nnn w)
  | 0xB#4 => .jpV0 (Field.nnn w)
  | 0xC#4 => .rnd (Field.x w) (Field.kk w)
  | 0xD#4 => .drw (Field.x w) (Field.y w) (Field.n w)
  | 0xE#4 => decodeClassE w
  | _ => decodeClassF w

/-- The word of two fetched bytes: the byte at PC is w[15:8] (R70, 20_memory.md R52). -/
def wordOfBytes (hi lo : Byte) : Word := hi ++ lo

/-- The two bytes of a word as they lie in memory, the high byte first (R70). -/
def bytesOfWord (w : Word) : Byte × Byte := (w.extractLsb' 8 8, w.extractLsb' 0 8)

/-- Why a list of bytes holds no instruction. -/
inductive DecodeRefusal where
  /-- fewer than the two bytes every instruction has (R70) -/
  | truncated
  deriving DecidableEq, Repr

/-- Decode the first instruction of a list of bytes and give the bytes after it. -/
def decodeBytes (skipRegStrict : Bool) : List Byte → Except DecodeRefusal (Instr × List Byte)
  | hi :: lo :: rest => .ok (decode skipRegStrict (wordOfBytes hi lo), rest)
  | _ => .error .truncated

/-- The word of an instruction, written from the patterns of R78. -/
def encode : Instr → Word
  | .cls => 0x00E0#16
  | .ret => 0x00EE#16
  | .jp nnn => 0x1#4 ++ nnn
  | .call nnn => 0x2#4 ++ nnn
  | .seImm x kk => 0x3#4 ++ x ++ kk
  | .sneImm x kk => 0x4#4 ++ x ++ kk
  | .seReg x y => 0x5#4 ++ x ++ y ++ 0x0#4
  | .ldImm x kk => 0x6#4 ++ x ++ kk
  | .addImm x kk => 0x7#4 ++ x ++ kk
  | .ldReg x y => 0x8#4 ++ x ++ y ++ 0x0#4
  | .orReg x y => 0x8#4 ++ x ++ y ++ 0x1#4
  | .andReg x y => 0x8#4 ++ x ++ y ++ 0x2#4
  | .xorReg x y => 0x8#4 ++ x ++ y ++ 0x3#4
  | .addReg x y => 0x8#4 ++ x ++ y ++ 0x4#4
  | .subReg x y => 0x8#4 ++ x ++ y ++ 0x5#4
  | .shrReg x y => 0x8#4 ++ x ++ y ++ 0x6#4
  | .subnReg x y => 0x8#4 ++ x ++ y ++ 0x7#4
  | .shlReg x y => 0x8#4 ++ x ++ y ++ 0xE#4
  | .sneReg x y => 0x9#4 ++ x ++ y ++ 0x0#4
  | .ldI nnn => 0xA#4 ++ nnn
  | .jpV0 nnn => 0xB#4 ++ nnn
  | .rnd x kk => 0xC#4 ++ x ++ kk
  | .drw x y n => 0xD#4 ++ x ++ y ++ n
  | .skp x => 0xE#4 ++ x ++ 0x9E#8
  | .sknp x => 0xE#4 ++ x ++ 0xA1#8
  | .ldVxDt x => 0xF#4 ++ x ++ 0x07#8
  | .ldVxK x => 0xF#4 ++ x ++ 0x0A#8
  | .ldDtVx x => 0xF#4 ++ x ++ 0x15#8
  | .ldStVx x => 0xF#4 ++ x ++ 0x18#8
  | .addIVx x => 0xF#4 ++ x ++ 0x1E#8
  | .ldFVx x => 0xF#4 ++ x ++ 0x29#8
  | .ldBVx x => 0xF#4 ++ x ++ 0x33#8
  | .ldMemVx x => 0xF#4 ++ x ++ 0x55#8
  | .ldVxMem x => 0xF#4 ++ x ++ 0x65#8
  | .unknown w => w

/-- The bytes of an instruction in memory order. -/
def encodeBytes (i : Instr) : List Byte := [(bytesOfWord (encode i)).1, (bytesOfWord (encode i)).2]

/-- The `match` and `mask` columns of the row of R78 an instruction belongs to; the masks of 5xy0 and 9xy0 depend on
`SKIP_REG_STRICT`, and UNKNOWN has the table's 0x0000 and 0x0000. -/
def opcodeRow (skipRegStrict : Bool) : Instr → Word × Word
  | .cls => (0x00E0, 0xFFFF)
  | .ret => (0x00EE, 0xFFFF)
  | .jp _ => (0x1000, 0xF000)
  | .call _ => (0x2000, 0xF000)
  | .seImm _ _ => (0x3000, 0xF000)
  | .sneImm _ _ => (0x4000, 0xF000)
  | .seReg _ _ => (0x5000, if skipRegStrict then 0xF00F else 0xF000)
  | .ldImm _ _ => (0x6000, 0xF000)
  | .addImm _ _ => (0x7000, 0xF000)
  | .ldReg _ _ => (0x8000, 0xF00F)
  | .orReg _ _ => (0x8001, 0xF00F)
  | .andReg _ _ => (0x8002, 0xF00F)
  | .xorReg _ _ => (0x8003, 0xF00F)
  | .addReg _ _ => (0x8004, 0xF00F)
  | .subReg _ _ => (0x8005, 0xF00F)
  | .shrReg _ _ => (0x8006, 0xF00F)
  | .subnReg _ _ => (0x8007, 0xF00F)
  | .shlReg _ _ => (0x800E, 0xF00F)
  | .sneReg _ _ => (0x9000, if skipRegStrict then 0xF00F else 0xF000)
  | .ldI _ => (0xA000, 0xF000)
  | .jpV0 _ => (0xB000, 0xF000)
  | .rnd _ _ => (0xC000, 0xF000)
  | .drw _ _ _ => (0xD000, 0xF000)
  | .skp _ => (0xE09E, 0xF0FF)
  | .sknp _ => (0xE0A1, 0xF0FF)
  | .ldVxDt _ => (0xF007, 0xF0FF)
  | .ldVxK _ => (0xF00A, 0xF0FF)
  | .ldDtVx _ => (0xF015, 0xF0FF)
  | .ldStVx _ => (0xF018, 0xF0FF)
  | .addIVx _ => (0xF01E, 0xF0FF)
  | .ldFVx _ => (0xF029, 0xF0FF)
  | .ldBVx _ => (0xF033, 0xF0FF)
  | .ldMemVx _ => (0xF055, 0xF0FF)
  | .ldVxMem _ => (0xF065, 0xF0FF)
  | .unknown _ => (0x0000, 0x0000)

/-- The instruction the decoder reads from the table's bits (bit 0 least significant, one 16-bit word): its two bytes are
laid out high byte first and decoded with the `SKIP_REG_STRICT` that `State.reset` holds. No instruction is longer than 16
bits (R70). -/
def decodeTableWord (nbits w : Nat) : Option Instr :=
  let word : Word := BitVec.ofNat 16 (w % 2 ^ nbits)
  let b := bytesOfWord word
  if nbits ≤ 16 then
    match decodeBytes Machine.resetParams.skipRegStrict [b.1, b.2] with
    | .ok (i, _) => some i
    | .error _ => none
  else none

end Sys2Proof
end

