-- ==== Sys2Proof/Machine/State.lean ====
section
/-! DEFINITION. The state of the CORE (10_state.md), as plain data, and its value at reset (R39). -/

namespace Sys2Proof.Machine

open Sys2Proof.Config

/-- The draw-wait state (10_state.md R34). -/
inductive DwState where
  | free
  | waiting
  | refreshFinished
  deriving DecidableEq, Repr

/-- What the fault register holds (10_state.md R35, 60_exceptions.md R200). -/
inductive FaultCode where
  /-- code 0: no fault -/
  | noFault
  /-- code 1: RET with an empty stack (40_flow.md R101) -/
  | stackUnderflow
  /-- code 2: CALL at capacity (40_flow.md R103) -/
  | stackOverflow
  deriving DecidableEq, Repr

/-- The framebuffer: rows of columns, row 0 at the top, column 0 at the left, `true` lit (10_state.md R31). -/
abbrev Framebuffer := Vector (Vector Bool displayW) displayH

/-- The transactions a host issues to a running CORE (00_scope.md R9). CONSTRUCT makes a new CORE and is
`construct` (Machine/Construct.lean). -/
inductive Transaction where
  | cycle
  | tick
  | keys (snapshot : Vector Bool 16)
  | refresh
  | readFb
  | readTimers
  | readStatus
  deriving DecidableEq, Repr

/-- Everything the spec gives the CORE (10_state.md), and two fields of the model's own, `draws` and `schedule`. -/
structure State where
  /-- V0 to VF (R20); VF is also the flag register (R21) -/
  v        : Vector Byte 16
  /-- the index register I (R23) -/
  i        : Word
  /-- the program counter PC (R24) -/
  pc       : Word
  /-- the call stack (R28), the top entry first (log entry 7) -/
  stack    : List Word
  /-- the delay timer DT (R30) -/
  dt       : Byte
  /-- the sound timer ST (R30) -/
  st       : Byte
  /-- memory (20_memory.md R50): the bytes that differ from their reset contents, addresses rising (log entry 4) -/
  mem      : List Host.Cell
  /-- the framebuffer (R31) -/
  fb       : Framebuffer
  /-- the key snapshot (R32) -/
  keys     : Vector Bool 16
  /-- the key latch (R33) -/
  latch    : Option Nibble
  /-- the draw-wait state (R34) -/
  dwstate  : DwState
  /-- the fault register (R35) -/
  fault    : FaultCode
  /-- the draw flag (R36) -/
  drawFlag : Bool
  /-- QUIRKS (R37) and the other construction parameters (00_scope.md R7), never changed (R8) (log entry 1) -/
  params   : Params
  /-- the model's own: how many free values have been drawn (log entry 2) -/
  draws    : Nat
  /-- the model's own: the host's transactions to come (R38's schedule); CYCLE when empty (log entry 3) -/
  schedule : List Transaction
  deriving DecidableEq, Repr

/-- Reasons for which the machine would stop. There is none: the only two exceptions of the CORE (60_exceptions.md R200)
write the fault register and give a next state, and nothing else faults (R207). Log entry 5. -/
inductive Fault where
  deriving DecidableEq, Repr

/-- Reasons for which there is no next state. -/
inductive Refusal where
  /-- raised by `exec` for an instruction that has no meaning yet: no instruction (safe) -/
  | notModelled (mnemonic : String)
  /-- raised by `construct` when the ROM could not be read: a load failure, no CORE exists
  (70_reset_and_hazards.md R235, U15) (safe) -/
  | romUnreadable
  /-- raised by `construct` when the ROM is longer than `romMax`: a load failure, no CORE exists
  (70_reset_and_hazards.md R234, U15) (safe) -/
  | romTooLarge
  deriving DecidableEq, Repr

/-- The CORE right after CONSTRUCT with the parameters `resetParams` and an empty ROM (10_state.md R39,
70_reset_and_hazards.md R230, R233). No memory cell is listed: every byte holds its reset contents. -/
def State.reset : State :=
  { v        := Vector.replicate 16 0
    i        := 0
    pc       := BitVec.ofNat 16 programBase
    stack    := []
    dt       := 0
    st       := 0
    mem      := []
    fb       := Vector.replicate displayH (Vector.replicate displayW false)
    keys     := Vector.replicate 16 false
    latch    := none
    dwstate  := .free
    fault    := .noFault
    drawFlag := false
    params   := resetParams
    draws    := 0
    schedule := [] }

end Sys2Proof.Machine
end

