-- ==== Sys2Proof/Machine/Ops.lean ====
section
/-! DEFINITION. The named operations over registers, memory, stack, display, keys, faults and free values, which the meanings
of the instructions are written in. -/

namespace Sys2Proof.Machine

open Sys2Proof.Config

/-! ### Memory (20_memory.md) -/

/-- What an address holds at reset: the font `f` at `fontBase`, zero elsewhere (10_state.md R39, 20_memory.md R55, R56). An
address that memory does not list reads as this. -/
def Memory.blank (f : Vector Byte fontSize) (a : Nat) : Byte :=
  if h : fontBase ≤ a ∧ a - fontBase < fontSize then f[a - fontBase]'h.2 else 0

/-- The byte at an address. -/
def Memory.get (f : Vector Byte fontSize) : List Host.Cell → Nat → Byte
  | [], a => Memory.blank f a
  | (k, b) :: rest, a => if k = a then b else Memory.get f rest a

/-- Memory without any entry for an address. -/
def Memory.erase (a : Nat) : List Host.Cell → List Host.Cell
  | [] => []
  | (k, b) :: rest => if k = a then Memory.erase a rest else (k, b) :: Memory.erase a rest

/-- An entry put before the first one with a larger address. -/
def Memory.insert (a : Nat) (b : Byte) : List Host.Cell → List Host.Cell
  | [] => [(a, b)]
  | (k, c) :: rest => if a < k then (a, b) :: (k, c) :: rest else (k, c) :: Memory.insert a b rest

/-- Memory with a byte written; a byte equal to the reset contents leaves no entry. -/
def Memory.put (f : Vector Byte fontSize) (m : List Host.Cell) (a : Nat) (b : Byte) : List Host.Cell :=
  if b = Memory.blank f a then Memory.erase a m else Memory.insert a b (Memory.erase a m)

/-- The canonical form from an address on: addresses rise strictly, lie in memory, and no entry equals the reset contents. -/
def Memory.wfFrom (f : Vector Byte fontSize) : Nat → List Host.Cell → Bool
  | _, [] => true
  | lo, (a, b) :: rest => decide (lo ≤ a) && decide (a < memSize) && b != Memory.blank f a && Memory.wfFrom f (a + 1) rest

/-- The canonical form of memory (log entry 4). -/
def Memory.wf (f : Vector Byte fontSize) (m : List Host.Cell) : Bool := Memory.wfFrom f 0 m

/-- The memory of a CORE is in canonical form for its own font. -/
def State.memWf (s : State) : Bool := Memory.wf s.params.font s.mem

/-- `MemRead(addr, 1)` (00_scope.md R13): every address is masked to 12 bits (20_memory.md R51, D5). -/
def State.readByte (s : State) (a : Nat) : Byte := Memory.get s.params.font s.mem (a % memSize)

/-- `MemWrite(addr, 1, v)` (00_scope.md R13), masked as R51 says. -/
def State.writeByte (s : State) (a : Nat) (b : Byte) : State :=
  { s with mem := Memory.put s.params.font s.mem (a % memSize) b }

/-! ### Registers (10_state.md R20 to R24, R30) -/

/-- `V[x]` (00_scope.md R12). -/
def State.reg (s : State) (x : Nibble) : Byte := s.v[x.toNat]'(x.isLt)

/-- `V[x] <- b` (00_scope.md R12). -/
def State.setReg (s : State) (x : Nibble) (b : Byte) : State := { s with v := s.v.set x.toNat b x.isLt }

def State.setI (s : State) (w : Word) : State := { s with i := w }

def State.setPc (s : State) (w : Word) : State := { s with pc := w }

def State.setStack (s : State) (l : List Word) : State := { s with stack := l }

def State.setDt (s : State) (b : Byte) : State := { s with dt := b }

def State.setSt (s : State) (b : Byte) : State := { s with st := b }

def State.setFb (s : State) (f : Framebuffer) : State := { s with fb := f }

def State.setKeys (s : State) (k : Vector Bool 16) : State := { s with keys := k }

def State.setLatch (s : State) (l : Option Nibble) : State := { s with latch := l }

def State.setDw (s : State) (d : DwState) : State := { s with dwstate := d }

def State.setFault (s : State) (f : FaultCode) : State := { s with fault := f }

def State.setDrawFlag (s : State) (b : Bool) : State := { s with drawFlag := b }

def State.setDraws (s : State) (n : Nat) : State := { s with draws := n }

def State.setSchedule (s : State) (l : List Transaction) : State := { s with schedule := l }

/-- Zero extension of an address field to 16 bits (30_encoding.md R72). -/
def zext16 (nnn : Addr) : Word := nnn.setWidth 16

/-- Zero extension of a byte to 16 bits (00_scope.md R11). -/
def zextByte (b : Byte) : Word := b.setWidth 16

/-- The register index of a number below 16 (V0, V1, ... in the loops of Fx55 and Fx65). -/
def regIndex (k : Nat) : Nibble := BitVec.ofNat 4 k

/-! ### Control (00_scope.md R17, 40_flow.md R109) -/

/-- `rewind()`: back to the instruction being executed (00_scope.md R17). -/
def State.rewind (s : State) : State := s.setPc (s.pc - 2)

/-- A skip adds exactly 2 to PC (40_flow.md R109). -/
def State.skipIf (s : State) (c : Bool) : State := if c then s.setPc (s.pc + 2) else s

/-! ### Call stack (10_state.md R28, R29; 00_scope.md R14) -/

/-- Whether the depth equals `STACK_DEPTH` (40_flow.md R103); never when unbounded. -/
def State.stackFull (s : State) : Bool :=
  match s.params.stackDepth with
  | none => false
  | some n => decide (s.stack.length = n)

/-- `Push(v)`. -/
def State.push (s : State) (w : Word) : State := s.setStack (w :: s.stack)

/-! ### Taking an exception (00_scope.md R15, 60_exceptions.md R203) -/

/-- `raise Fault(reason)`: the fault register is written and nothing else; nothing is saved, no mode changes and control goes
nowhere. PC and the draw flag stay as the fetch left them (R203), and every later CYCLE has no effect (`cycle`, R204). There is
NO return from a fault (R204): only `construct` makes a CORE whose fault register is clear. -/
def State.raiseFault (s : State) (r : FaultCode) : State := s.setFault r

/-! ### Free values (00_scope.md R16, D22) -/

/-- `draw_byte()`: the next free byte, and the state that has drawn it. -/
def State.drawByte (s : State) : Byte × State := (freeByte s.draws, s.setDraws (s.draws + 1))

/-- `draw_bool()`: the next free boolean, and the state that has drawn it. -/
def State.drawBool (s : State) : Bool × State := (freeBool s.draws, s.setDraws (s.draws + 1))

/-! ### Framebuffer (10_state.md R31) -/

/-- `fb[r][c]`. -/
def Framebuffer.pixel (fb : Framebuffer) (r : Fin displayH) (c : Fin displayW) : Bool := (fb[r.val]'r.isLt)[c.val]'c.isLt

/-- `fb[r][c] <- b`. -/
def Framebuffer.setPixel (fb : Framebuffer) (r : Fin displayH) (c : Fin displayW) (b : Bool) : Framebuffer :=
  fb.set r.val ((fb[r.val]'r.isLt).set c.val b c.isLt) r.isLt

/-- Every pixel off (42_display.md R150). -/
def Framebuffer.blank : Framebuffer := Vector.replicate displayH (Vector.replicate displayW false)

/-! ### Keys (10_state.md R32) -/

/-- Whether `keys[k]` is true. -/
def State.keyDown (s : State) (k : Nibble) : Bool := s.keys[k.toNat]'(k.isLt)

/-- The key codes 0x0 to 0xF, rising. -/
def keyCodes : List Nibble :=
  [0x0, 0x1, 0x2, 0x3, 0x4, 0x5, 0x6, 0x7, 0x8, 0x9, 0xA, 0xB, 0xC, 0xD, 0xE, 0xF]

/-- The smallest key code pressed, if any is (43_keyboard.md R175). -/
def State.lowestKey (s : State) : Option Nibble := keyCodes.find? s.keyDown

end Sys2Proof.Machine
end

