-- ==== Sys2Proof/Machine/Flags.lean ====
section
/-! DEFINITION. Every value an instruction writes to VF (10_state.md R21). -/

namespace Sys2Proof.Machine

/-- VF's register index (10_state.md R21). -/
def vf : Nibble := 0xF

/-- A flag as the byte VF holds. -/
def flagByte (c : Bool) : Byte := if c then 1 else 0

/-- Carry of an 8-bit addition: the exact sum exceeds 255 (41_alu.md R127). -/
def carryFlag (a b : Byte) : Byte := flagByte (decide (255 < a.toNat + b.toNat))

/-- NOT borrow of `a - b` (41_alu.md R128, R130). -/
def notBorrowFlag (a b : Byte) : Byte := flagByte (!decide (a.toNat < b.toNat))

/-- The bit a right shift moves out (41_alu.md R129). -/
def lowBitFlag (b : Byte) : Byte := flagByte (b.getLsbD 0)

/-- The bit a left shift moves out (41_alu.md R131). -/
def highBitFlag (b : Byte) : Byte := flagByte (b.getLsbD 7)

/-- Whether an index sum exceeds the 12-bit address range (44_index_timer_memory.md R184, D8). -/
def indexOverflow (i : Word) (b : Byte) : Bool := decide (0xFFF < i.toNat + b.toNat)

/-- `V[x] <- r` and then `VF <- f` (41_alu.md R134). -/
def State.setRegAndFlag (s : State) (x : Nibble) (r f : Byte) : State := (s.setReg x r).setReg vf f

/-- `LogicFlag(x)` (41_alu.md R126, D10): 0 with `vfreset`; without it a free byte, unless x = F, when VF keeps the result. -/
def State.logicFlag (s : State) (x : Nibble) : State :=
  if s.params.quirks.vfreset then s.setReg vf 0
  else if x = vf then s
  else s.drawByte.2.setReg vf s.drawByte.1

end Sys2Proof.Machine
end

