-- ==== Sys2Proof/Machine/Operands.lean ====
section
/-! DEFINITION. The operand forms: what an instruction reads where a quirk or a value decides it, and the addresses and digits it
computes. -/

namespace Sys2Proof.Machine

/-- The source of SHR and SHL: V[x] with `shiftx`, else V[y] (41_alu.md R129, R131). -/
def State.shiftSource (s : State) (x y : Nibble) : Byte := if s.params.quirks.shiftx then s.reg x else s.reg y

/-- The register index nnn[11:8] of Bnnn (40_flow.md R104). -/
def jumpIndex (nnn : Addr) : Nibble := nnn.extractLsb' 8 4

/-- What Bnnn adds to nnn: V[x] with `jumpx`, else V0 (40_flow.md R104, D33). -/
def State.jumpOffset (s : State) (nnn : Addr) : Byte :=
  if s.params.quirks.jumpx then s.reg (jumpIndex nnn) else s.reg 0x0

/-- `KeyPressed(v)` (43_keyboard.md R170): the snapshot for a key code; no defined answer, so a free value, above 0xF (D12). -/
def State.keyPressed (s : State) (b : Byte) : Bool × State :=
  if b ≤ 0x0F#8 then (s.keyDown (b.setWidth 4), s) else s.drawBool

/-- The address of a hex digit's glyph, from the full 8-bit value (44_index_timer_memory.md R185, D13). -/
def glyphAddress (b : Byte) : Word := BitVec.ofNat 16 (fontBase + glyphSize * b.toNat)

/-- The decimal hundreds of a byte (44_index_timer_memory.md R186). -/
def hundreds (b : Byte) : Byte := BitVec.ofNat 8 (b.toNat / 100)

/-- The decimal tens of a byte (R186). -/
def tens (b : Byte) : Byte := BitVec.ofNat 8 (b.toNat / 10 % 10)

/-- The decimal units of a byte (R186). -/
def units (b : Byte) : Byte := BitVec.ofNat 8 (b.toNat % 10)

/-- V0 to V[k-1] stored at I, I+1, ... in ascending order (44_index_timer_memory.md R187, 20_memory.md R54). -/
def State.storeRegs (s : State) : Nat → State
  | 0 => s
  | k + 1 => (s.storeRegs k).writeByte (s.i.toNat + k) (s.reg (regIndex k))

/-- V0 to V[k-1] loaded from I, I+1, ... in ascending order (44_index_timer_memory.md R188). -/
def State.loadRegs (s : State) : Nat → State
  | 0 => s
  | k + 1 => (s.loadRegs k).setReg (regIndex k) (s.readByte (s.i.toNat + k))

/-- I advances by the count x + 1 when `meminc` is set (44_index_timer_memory.md R187, R188). -/
def State.advanceI (s : State) (x : Nibble) : State :=
  if s.params.quirks.meminc then s.setI (s.i + BitVec.ofNat 16 (x.toNat + 1)) else s

end Sys2Proof.Machine
end

