-- ==== Sys2Proof/Machine/Blit.lean ====
section
/-! DEFINITION. The sprite engine, `Blit(x, y, n)` (42_display.md R152 to R160). -/

namespace Sys2Proof.Machine

open Sys2Proof.Config

/-- The screen row of a row number: reduced mod H (R153, R157). -/
def screenRow (k : Nat) : Fin displayH := Fin.ofNat displayH k

/-- The screen column of a column number: reduced mod W (R153, R157). -/
def screenCol (k : Nat) : Fin displayW := Fin.ofNat displayW k

/-- The sprite bit of a column: bit 7 is column 0 (R156, D4). -/
def spriteBit (b : Byte) (col : Nat) : Bool := b.getLsbD (7 - col)

/-- One target pixel: XOR with the sprite bit, and a collision when both were on (R159). -/
def plot (r : Fin displayH) (c : Fin displayW) (bit : Bool) (acc : Framebuffer × Bool) : Framebuffer × Bool :=
  (Framebuffer.setPixel acc.1 r c (Framebuffer.pixel acc.1 r c != bit), acc.2 || (bit && Framebuffer.pixel acc.1 r c))

/-- The columns from `col` on, `k` of them left; with `clip`, a column past the right edge ends the row (R158, D27). -/
def blitCols (clip : Bool) (r : Fin displayH) (ox : Nat) (b : Byte) : Nat → Nat → Framebuffer × Bool → Framebuffer × Bool
  | 0, _, acc => acc
  | k + 1, col, acc =>
    if clip && decide (displayW ≤ ox + col) then acc
    else blitCols clip r ox b k (col + 1) (plot r (screenCol (ox + col)) (spriteBit b col) acc)

/-- The rows from `row` on, `k` of them left; with `clip`, a row past the bottom edge ends the sprite (R158, D27). The row's
byte is `MemRead(I + row, 1)` (R155). -/
def State.blitRows (s : State) (ox oy : Nat) : Nat → Nat → Framebuffer × Bool → Framebuffer × Bool
  | 0, _, acc => acc
  | k + 1, row, acc =>
    if s.params.quirks.clip && decide (displayH ≤ oy + row) then acc
    else s.blitRows ox oy k (row + 1)
      (blitCols s.params.quirks.clip (screenRow (oy + row)) ox (s.readByte (s.i.toNat + row)) 8 0 acc)

/-- The origin column, V[x] mod W, wrapped under either `clip` (R153). -/
def State.originCol (s : State) (x : Nibble) : Nat := (s.reg x).toNat % displayW

/-- The origin row, V[y] mod H (R153). -/
def State.originRow (s : State) (y : Nibble) : Nat := (s.reg y).toNat % displayH

/-- What the loops of R152 leave: the framebuffer, and whether VF was set to 1. -/
def State.blitResult (s : State) (x y n : Nibble) : Framebuffer × Bool :=
  s.blitRows (s.originCol x) (s.originRow y) n.toNat 0 (s.fb, false)

/-- `Blit(x, y, n)` (R152): V[x] and V[y] are read before VF is written (R153, D11), and the draw flag is set (R160). -/
def State.blit (s : State) (x y n : Nibble) : State :=
  ((s.setFb (s.blitResult x y n).1).setReg vf (flagByte (s.blitResult x y n).2)).setDrawFlag true

end Sys2Proof.Machine
end

