-- ==== Sys2Proof/Machine/Display.lean ====
section
/-! DEFINITION. Clear, draw and the draw-wait machine (42_display.md). -/

namespace Sys2Proof.Machine

/-- CLS (R150): not gated by `dw`, and it leaves the draw-wait state alone. -/
def execCls (s : State) : Host.Outcome State Fault Refusal :=
  .next ((s.setFb Framebuffer.blank).setDrawFlag true)

/-- DRW Vx, Vy, n (R151): at once with `dw` clear (R162); with `dw` set, the machine of R161. -/
def execDrw (x y n : Nibble) (s : State) : Host.Outcome State Fault Refusal :=
  if s.params.quirks.dw then
    match s.dwstate with
    | .free => .next (s.rewind.setDw .waiting)
    | .waiting => .next s.rewind
    | .refreshFinished => .next ((s.blit x y n).setDw .free)
  else .next (s.blit x y n)

end Sys2Proof.Machine
end

