-- ==== Sys2Proof/Machine/Flow.lean ====
section
/-! DEFINITION. Control transfer and skips (40_flow.md), and the unknown words (30_encoding.md R79). A meaning acts on the state
the fetch leaves: PC already holds a + 2 (R73). -/

namespace Sys2Proof.Machine

/-- RET (R100); on an empty stack it raises StackUnderflow (R101). -/
def execRet (s : State) : Host.Outcome State Fault Refusal :=
  match s.stack with
  | [] => .next (s.raiseFault .stackUnderflow)
  | top :: rest => .next ((s.setStack rest).setPc top)

/-- JP nnn (R102). -/
def execJp (nnn : Addr) (s : State) : Host.Outcome State Fault Refusal :=
  .next (s.setPc (zext16 nnn))

/-- CALL nnn (R103): the return address is PC as the fetch left it; at capacity it raises StackOverflow. -/
def execCall (nnn : Addr) (s : State) : Host.Outcome State Fault Refusal :=
  if s.stackFull then .next (s.raiseFault .stackOverflow)
  else .next ((s.push s.pc).setPc (zext16 nnn))

/-- JP V0, nnn (R104); the sum is not masked. -/
def execJpV0 (nnn : Addr) (s : State) : Host.Outcome State Fault Refusal :=
  .next (s.setPc (zext16 nnn + zextByte (s.jumpOffset nnn)))

/-- SE Vx, kk (R105). -/
def execSeImm (x : Nibble) (kk : Byte) (s : State) : Host.Outcome State Fault Refusal :=
  .next (s.skipIf (s.reg x == kk))

/-- SNE Vx, kk (R106). -/
def execSneImm (x : Nibble) (kk : Byte) (s : State) : Host.Outcome State Fault Refusal :=
  .next (s.skipIf (s.reg x != kk))

/-- SE Vx, Vy (R107). -/
def execSeReg (x y : Nibble) (s : State) : Host.Outcome State Fault Refusal :=
  .next (s.skipIf (s.reg x == s.reg y))

/-- SNE Vx, Vy (R108). -/
def execSneReg (x y : Nibble) (s : State) : Host.Outcome State Fault Refusal :=
  .next (s.skipIf (s.reg x != s.reg y))

/-- UNKNOWN (30_encoding.md R79): a no-op; the fetch has done all it does. -/
def execUnknown (_w : Word) (s : State) : Host.Outcome State Fault Refusal :=
  .next s

end Sys2Proof.Machine
end

