-- ==== Sys2Proof/Machine/Index.lean ====
section
/-! DEFINITION. The index register, the timers and memory transfer (44_index_timer_memory.md). -/

namespace Sys2Proof.Machine

/-- LD I, nnn (R180). -/
def execLdI (nnn : Addr) (s : State) : Host.Outcome State Fault Refusal :=
  .next (s.setI (zext16 nnn))

/-- LD Vx, DT (R181). -/
def execLdVxDt (x : Nibble) (s : State) : Host.Outcome State Fault Refusal :=
  .next (s.setReg x s.dt)

/-- LD DT, Vx (R182). -/
def execLdDtVx (x : Nibble) (s : State) : Host.Outcome State Fault Refusal :=
  .next (s.setDt (s.reg x))

/-- LD ST, Vx (R183). -/
def execLdStVx (x : Nibble) (s : State) : Host.Outcome State Fault Refusal :=
  .next (s.setSt (s.reg x))

/-- ADD I, Vx (R184): VF is written, with 1, only when the exact sum exceeds 0xFFF (D8, C3). -/
def execAddIVx (x : Nibble) (s : State) : Host.Outcome State Fault Refusal :=
  if indexOverflow s.i (s.reg x) then .next ((s.setI (s.i + zextByte (s.reg x))).setReg vf 1)
  else .next (s.setI (s.i + zextByte (s.reg x)))

/-- LD F, Vx (R185). -/
def execLdFVx (x : Nibble) (s : State) : Host.Outcome State Fault Refusal :=
  .next (s.setI (glyphAddress (s.reg x)))

/-- LD B, Vx (R186): I is unchanged. -/
def execLdBVx (x : Nibble) (s : State) : Host.Outcome State Fault Refusal :=
  .next (((s.writeByte s.i.toNat (hundreds (s.reg x))).writeByte (s.i.toNat + 1) (tens (s.reg x))).writeByte
    (s.i.toNat + 2) (units (s.reg x)))

/-- LD [I], Vx (R187): V0 to V[x], both ends included. -/
def execLdMemVx (x : Nibble) (s : State) : Host.Outcome State Fault Refusal :=
  .next ((s.storeRegs (x.toNat + 1)).advanceI x)

/-- LD Vx, [I] (R188): V0 to V[x], both ends included. -/
def execLdVxMem (x : Nibble) (s : State) : Host.Outcome State Fault Refusal :=
  .next ((s.loadRegs (x.toNat + 1)).advanceI x)

end Sys2Proof.Machine
end

