-- ==== Sys2Proof/Machine/Keyboard.lean ====
section
/-! DEFINITION. Keyboard skips and the key wait (43_keyboard.md). -/

namespace Sys2Proof.Machine

/-- SKP Vx (R171). -/
def execSkp (x : Nibble) (s : State) : Host.Outcome State Fault Refusal :=
  .next ((s.keyPressed (s.reg x)).2.skipIf (s.keyPressed (s.reg x)).1)

/-- SKNP Vx (R172). -/
def execSknp (x : Nibble) (s : State) : Host.Outcome State Fault Refusal :=
  .next ((s.keyPressed (s.reg x)).2.skipIf (!(s.keyPressed (s.reg x)).1))

/-- LD Vx, K (R173, R174): wait for a press, then for the release of the key it latched. -/
def execLdVxK (x : Nibble) (s : State) : Host.Outcome State Fault Refusal :=
  match s.latch with
  | none =>
    match s.lowestKey with
    | none => .next s.rewind
    | some k => .next (s.setLatch (some k)).rewind
  | some k =>
    if s.keyDown k then .next s.rewind
    else .next ((s.setReg x (k.setWidth 8)).setLatch none)

end Sys2Proof.Machine
end

