-- ==== Sys2Proof/Machine/Cycle.lean ====
section
/-! DEFINITION. The transactions that change a running CORE: CYCLE (30_encoding.md R73), TICK (60_exceptions.md R210), KEYS
(R213), REFRESH (42_display.md R164), and the reads, which change nothing. -/

namespace Sys2Proof.Machine

/-- The word at PC: `MemRead(a, 1) ++ MemRead(a + 1, 1)` (30_encoding.md R70, R73). -/
def State.fetchWord (s : State) : Word :=
  wordOfBytes (s.readByte s.pc.toNat) (s.readByte (s.pc.toNat + 1))

/-- The instruction at PC, under this CORE's `SKIP_REG_STRICT` (R77, R81). -/
def State.currentInstr (s : State) : Instr := decode s.params.skipRegStrict s.fetchWord

/-- What the fetch leaves for the meaning: draw_flag cleared (R75) and PC advanced by 2 (R73). -/
def State.fetched (s : State) : State := (s.setDrawFlag false).setPc (s.pc + 2)

/-- CYCLE (R73); while a fault is recorded it changes nothing (R74). -/
def cycle (s : State) : Host.Outcome State Fault Refusal :=
  if s.fault = .noFault then exec s.currentInstr s.fetched else .next s

/-- A counter of the timer unit, decremented but never below zero (60_exceptions.md R210). -/
def countDown (b : Byte) : Byte := if b = 0 then 0 else b - 1

/-- TICK (R210). -/
def tick (s : State) : State := (s.setDt (countDown s.dt)).setSt (countDown s.st)

/-- REFRESH (42_display.md R164). -/
def refresh (s : State) : State :=
  match s.dwstate with
  | .waiting => s.setDw .refreshFinished
  | .free => s
  | .refreshFinished => s

/-- One transaction of 00_scope.md R9 on a running CORE. -/
def transact (t : Transaction) (s : State) : Host.Outcome State Fault Refusal :=
  match t with
  | .cycle => cycle s
  | .tick => .next (tick s)
  | .keys snapshot => .next (s.setKeys snapshot)
  | .refresh => .next (refresh s)
  | .readFb => .next s
  | .readTimers => .next s
  | .readStatus => .next s

/-- The next transaction of the host's schedule, or a CYCLE when the schedule names none (log entry 3). -/
def nextTransaction (s : State) : Host.Outcome State Fault Refusal :=
  match s.schedule with
  | [] => cycle s
  | t :: rest => transact t (s.setSchedule rest)

/-- A word stored at PC as the hardware lays it out, high byte first (30_encoding.md R70). -/
def State.storeWordAtPc (s : State) (w : Word) : State :=
  (s.writeByte s.pc.toNat (bytesOfWord w).1).writeByte (s.pc.toNat + 1) (bytesOfWord w).2

end Sys2Proof.Machine
end

