-- ==== Sys2Proof/Machine/Step.lean ====
section
/-! DEFINITION. One step of the machine is one transaction (00_scope.md R9, R10). -/

namespace Sys2Proof.Machine

/-- One step: the next transaction of the schedule, CYCLE when it is empty. -/
def step (s : State) : Host.Outcome State Fault Refusal := nextTransaction s

/-- `s` with an instruction stored where the next CYCLE fetches, that CYCLE the next transaction, and no fault recorded, since a
faulted CORE fetches nothing (30_encoding.md R74). It stands for a ROM that CONSTRUCT loaded (log entry 6). -/
def State.withFetchWord (s : State) (nbits w : Nat) : State :=
  ((s.storeWordAtPc (BitVec.ofNat 16 (w % 2 ^ nbits))).setFault .noFault).setSchedule (.cycle :: s.schedule)

end Sys2Proof.Machine
end

