-- ==== Sys2Proof/Machine/Construct.lean ====
section
/-! DEFINITION. CONSTRUCT(quirks, rom), the only reset (70_reset_and_hazards.md R230 to R236). -/

namespace Sys2Proof.Machine

/-- ROM byte j goes to the address `a + j`, in order (R233). -/
def loadRom : Nat → List Byte → State → State
  | _, [], s => s
  | a, b :: rest, s => loadRom (a + 1) rest (s.writeByte a b)

/-- CONSTRUCT (R230): a CORE in its reset state with these parameters and the ROM at `programBase`, or a load failure and no
CORE at all (R234, R235). `none` is a ROM that could not be read (log entry 6). -/
def construct (p : Params) (rom : Option (List Byte)) : Host.Outcome State Fault Refusal :=
  match rom with
  | none => .refused .romUnreadable
  | some bytes =>
    if romMax < bytes.length then .refused .romTooLarge
    else .next (loadRom programBase bytes { State.reset with params := p })

end Sys2Proof.Machine
end

