-- ==== Sys2Proof/Machine/Views.lean ====
section
/-! DEFINITION. What the host reads (60_exceptions.md R215 to R217) and the views of 10_state.md R37. -/

namespace Sys2Proof.Machine

/-- The code of `dwstate` in STATUS[1:0] (R37). -/
def DwState.code : DwState → BitVec 2
  | .free => 0
  | .waiting => 1
  | .refreshFinished => 2

/-- The code of `fault` in STATUS[9:8] (R37, R200). -/
def FaultCode.code : FaultCode → BitVec 2
  | .noFault => 0
  | .stackUnderflow => 1
  | .stackOverflow => 2

/-- The STATUS view (R37): reserved, fault, draw_flag, latch_key, latch_valid, dwstate, from bit 15 down. -/
def State.statusView (s : State) : Word :=
  0#6 ++ s.fault.code ++ BitVec.ofBool s.drawFlag ++ s.latch.getD 0 ++ BitVec.ofBool s.latch.isSome ++ s.dwstate.code

/-- The QUIRKS view (R37): reserved, jumpx, shiftx, clip, meminc, vfreset, dw, from bit 7 down. -/
def State.quirksView (s : State) : Byte :=
  0#2 ++ BitVec.ofBool s.params.quirks.jumpx ++ BitVec.ofBool s.params.quirks.shiftx ++ BitVec.ofBool s.params.quirks.clip ++
    BitVec.ofBool s.params.quirks.meminc ++ BitVec.ofBool s.params.quirks.vfreset ++ BitVec.ofBool s.params.quirks.dw

/-- What a transaction answers the host (00_scope.md R9). -/
inductive Response where
  /-- no value: the transaction only changes state -/
  | done
  /-- READ_FB: a copy of the framebuffer (R215) -/
  | framebuffer (fb : Framebuffer)
  /-- READ_TIMERS: DT and ST (R216) -/
  | timers (dt st : Byte)
  /-- READ_STATUS: the STATUS view (R217) -/
  | status (w : Word)
  deriving DecidableEq, Repr

/-- The answer a transaction gives in a state (log entry 3). -/
def State.respond (s : State) : Transaction → Response
  | .cycle | .tick | .keys _ | .refresh => .done
  | .readFb => .framebuffer s.fb
  | .readTimers => .timers s.dt s.st
  | .readStatus => .status s.statusView

end Sys2Proof.Machine
end

