-- ==== Sys2Proof/Safety.lean ====
section
/-! DEFINITION. What counts as a safe run, in the terms the statements use. -/

namespace Sys2Proof.Machine

/-- No fault is recorded: the CORE is not halted (60_exceptions.md R204). -/
def State.running (s : State) : Bool := decide (s.fault = .noFault)

/-- The end of a run (70_reset_and_hazards.md R245): the instruction at PC is a jump to PC itself and no fault is recorded. -/
def State.ended (s : State) : Bool :=
  s.running &&
    match s.currentInstr with
    | .jp nnn => decide (zext16 nnn = s.pc)
    | _ => false

/-- The stack holds at most `STACK_DEPTH` entries (10_state.md R29). -/
def State.StackFits (s : State) : Prop := ∀ n, s.params.stackDepth = some n → s.stack.length ≤ n

/-- With `dw` clear the draw-wait state is FREE (10_state.md R34, 42_display.md R162). -/
def State.DrawWaitIdle (s : State) : Prop := s.params.quirks.dw = false → s.dwstate = .free

/-- While a key is latched, PC rests on a key wait (43_keyboard.md R176). -/
def State.LatchWaits (s : State) : Prop := ∀ k, s.latch = some k → ∃ x, s.currentInstr = .ldVxK x

/-- The invariant of a running CORE: memory is in canonical form, the stack fits, the draw-wait machine is idle unless `dw` is
set, and a latched key means a key wait at PC. -/
structure State.Inv (s : State) : Prop where
  memWf        : s.memWf = true
  stackFits    : s.StackFits
  drawWaitIdle : s.DrawWaitIdle
  latchWaits   : s.LatchWaits

end Sys2Proof.Machine
end

