-- ==== Sys2Proof/Certificates/Slice0/Obligations.lean ====
section
/-! DEFINITION. The statements for the provers. A statement about `exec i s` takes `s` as the fetch leaves it: PC already holds
a + 2 and the draw flag is clear (30_encoding.md R73, R75; log entry 10); `StepRunsDecodedInstr` joins the two. -/

/-! ### The vocabulary of the frames -/

namespace Sys2Proof.Claims

open Sys2Proof.Machine

/-- The pieces of state beside the general registers. -/
inductive Part where
  | index | pc | stack | delay | sound | memory | framebuffer | keys | latch | dwstate | fault | drawFlag | params | draws
  | schedule
  deriving DecidableEq, Repr

/-- A piece of state is the same in both states; memory byte by byte, through the machine's own read. -/
def Part.Same (s t : State) : Part → Prop
  | .index => t.i = s.i
  | .pc => t.pc = s.pc
  | .stack => t.stack = s.stack
  | .delay => t.dt = s.dt
  | .sound => t.st = s.st
  | .memory => ∀ a, t.readByte a = s.readByte a
  | .framebuffer => t.fb = s.fb
  | .keys => t.keys = s.keys
  | .latch => t.latch = s.latch
  | .dwstate => t.dwstate = s.dwstate
  | .fault => t.fault = s.fault
  | .drawFlag => t.drawFlag = s.drawFlag
  | .params => t.params = s.params
  | .draws => t.draws = s.draws
  | .schedule => t.schedule = s.schedule

/-- Every piece of state but the listed ones is unchanged. -/
def Kept (changed : List Part) (s t : State) : Prop := ∀ p, p ∉ changed → p.Same s t

/-- Every general register but the listed ones is unchanged. -/
def RegsKept (written : List Nibble) (s t : State) : Prop := ∀ r, r ∉ written → t.reg r = s.reg r

/-- The next transaction is a CYCLE: the schedule names one, or names nothing (log entry 3). -/
def CycleNext (s : State) : Prop := s.schedule = [] ∨ ∃ rest, s.schedule = .cycle :: rest

/-- The pieces of state an instruction may change, from the rules of 40_flow.md to 44_index_timer_memory.md. -/
def mayChange : Instr → List Part
  | .cls => [.framebuffer, .drawFlag]
  | .ret | .call _ => [.pc, .stack, .fault]
  | .jp _ | .jpV0 _ => [.pc]
  | .seImm _ _ | .sneImm _ _ | .seReg _ _ | .sneReg _ _ => [.pc]
  | .ldImm _ _ | .addImm _ _ | .ldReg _ _ => []
  | .orReg _ _ | .andReg _ _ | .xorReg _ _ => [.draws]
  | .addReg _ _ | .subReg _ _ | .shrReg _ _ | .subnReg _ _ | .shlReg _ _ => []
  | .rnd _ _ => [.draws]
  | .drw _ _ _ => [.framebuffer, .drawFlag, .dwstate, .pc]
  | .skp _ | .sknp _ => [.pc, .draws]
  | .ldVxDt _ => []
  | .ldVxK _ => [.pc, .latch]
  | .ldDtVx _ => [.delay]
  | .ldStVx _ => [.sound]
  | .ldI _ | .addIVx _ | .ldFVx _ => [.index]
  | .ldBVx _ => [.memory]
  | .ldMemVx _ => [.memory, .index]
  | .ldVxMem _ => [.index]
  | .unknown _ => []

/-- The general registers an instruction may write (10_state.md R21, R22). -/
def mayWrite : Instr → Nibble → Prop
  | .ldImm x _, r | .addImm x _, r | .ldReg x _, r | .rnd x _, r | .ldVxDt x, r | .ldVxK x, r => r = x
  | .orReg x _, r | .andReg x _, r | .xorReg x _, r => r = x ∨ r = 0xF
  | .addReg x _, r | .subReg x _, r | .shrReg x _, r | .subnReg x _, r | .shlReg x _, r => r = x ∨ r = 0xF
  | .drw _ _ _, r | .addIVx _, r => r = 0xF
  | .ldVxMem x, r => r ≤ x
  | .cls, _ | .ret, _ | .jp _, _ | .call _, _ | .seImm _ _, _ | .sneImm _ _, _ | .seReg _ _, _ | .sneReg _ _, _ => False
  | .ldI _, _ | .jpV0 _, _ | .skp _, _ | .sknp _, _ | .ldDtVx _, _ | .ldStVx _, _ | .ldFVx _, _ => False
  | .ldBVx _, _ | .ldMemVx _, _ | .unknown _, _ => False

/-- The answer of KeyPressed for a register value (43_keyboard.md R170): the snapshot, or a free value above 0xF (D12). -/
def pressed (s : State) (b : Byte) : Bool := if h : b.toNat < 16 then s.keys[b.toNat] else Config.freeBool s.draws

/-- VF after OR, AND or XOR with result `res` (41_alu.md R126). -/
def logicVf (s : State) (x : Nibble) (res : Byte) : Byte :=
  if s.params.quirks.vfreset then 0 else if x = 0xF then res else Config.freeByte s.draws

/-- What OR, AND or XOR leaves in `t`, for the result `res` (41_alu.md R123 to R126). -/
def LogicDone (s t : State) (x : Nibble) (res : Byte) : Prop :=
  t.reg x = (if x = 0xF then logicVf s x res else res) ∧ t.reg 0xF = logicVf s x res ∧
  t.draws = (if s.params.quirks.vfreset || x == 0xF then s.draws else s.draws + 1) ∧
  RegsKept [x, 0xF] s t ∧ Kept [.draws] s t

/-- What an instruction with a result and a flag leaves: V[x], then VF (41_alu.md R134). -/
def ResultAndFlag (s t : State) (x : Nibble) (res flag : Nat) : Prop :=
  (t.reg x).toNat = (if x = 0xF then flag else res) ∧ (t.reg 0xF).toNat = flag ∧ RegsKept [x, 0xF] s t ∧ Kept [] s t

/-- The sprite bit that a draw puts on a pixel, said pixel by pixel and without the loops of 42_display.md R152: the pixel is
`dr` rows and `dc` columns past the wrapped origin (R153, R157); the sprite covers it when `dr < n` and `dc < 8`; with `clip`
only a row and a column not past the edge count (R158); the bit is bit 7 - dc of the byte at I + dr (R155, R156). -/
def spriteOn (s : State) (x y n : Nibble) (r : Fin Config.displayH) (c : Fin Config.displayW) : Bool :=
  let ox := (s.reg x).toNat % 64
  let oy := (s.reg y).toNat % 32
  let dr := (r.val + 32 - oy) % 32
  let dc := (c.val + 64 - ox) % 64
  decide (dr < n.toNat) && decide (dc < 8) && (!s.params.quirks.clip || (decide (oy + dr < 32) && decide (ox + dc < 64))) &&
    (s.readByte (s.i.toNat + dr)).getLsbD (7 - dc)

/-- What a performed draw leaves: every pixel XORed with the sprite, VF the collision, the draw flag set (R152). -/
def Drawn (s t : State) (x y n : Nibble) : Prop :=
  (∀ r c, Framebuffer.pixel t.fb r c = (Framebuffer.pixel s.fb r c ^^ spriteOn s x y n r c)) ∧
  (t.reg 0xF = 1 ∧ (∃ r c, spriteOn s x y n r c = true ∧ Framebuffer.pixel s.fb r c = true) ∨
   t.reg 0xF = 0 ∧ ∀ r c, spriteOn s x y n r c = true → Framebuffer.pixel s.fb r c = false) ∧
  t.drawFlag = true ∧ RegsKept [0xF] s t

/-- The 80 bytes of the font, glyphs 0 to F, copied here from the table of 20_memory.md R56 (D3) and not from the machine's own
definition. -/
def specFont : List Byte :=
  [0xF0, 0x90, 0x90, 0x90, 0xF0] ++ [0x20, 0x60, 0x20, 0x20, 0x70] ++ [0xF0, 0x10, 0xF0, 0x80, 0xF0] ++
  [0xF0, 0x10, 0xF0, 0x10, 0xF0] ++ [0x90, 0x90, 0xF0, 0x10, 0x10] ++ [0xF0, 0x80, 0xF0, 0x10, 0xF0] ++
  [0xF0, 0x80, 0xF0, 0x90, 0xF0] ++ [0xF0, 0x10, 0x20, 0x40, 0x40] ++ [0xF0, 0x90, 0xF0, 0x90, 0xF0] ++
  [0xF0, 0x90, 0xF0, 0x10, 0xF0] ++ [0xF0, 0x90, 0xF0, 0x90, 0x90] ++ [0xE0, 0x90, 0xE0, 0x90, 0xE0] ++
  [0xF0, 0x80, 0x80, 0x80, 0xF0] ++ [0xE0, 0x90, 0x90, 0x90, 0xE0] ++ [0xF0, 0x80, 0xF0, 0x80, 0xF0] ++
  [0xF0, 0x80, 0xF0, 0x80, 0x80]

/-- A DRW is performed, not stalled: `dw` is clear, or a refresh has come (42_display.md R151). -/
def DrawReady (s : State) : Prop := s.params.quirks.dw = false ∨ s.dwstate = .refreshFinished

end Sys2Proof.Claims

open Sys2Proof Sys2Proof.Machine Sys2Proof.Claims

/-! ### Encoding -/

/-- Decoding the word of a well-formed instruction gives the instruction back, for every operand value and either
`SKIP_REG_STRICT` (30_encoding.md section 3). -/
def Obligations.DecodeOfEncodeIsInstr : Prop :=
  ∀ (strict : Bool) (i : Instr), i.wellFormed strict = true → decode strict (encode i) = i

/-- Encoding what a word decodes to gives the word back, except for the words 5xyN and 9xyN with N not 0 when they execute as
5xy0 and 9xy0 (30_encoding.md sections 3 and 4, decision D14): no other bit of a word is dropped by decoding. -/
def Obligations.EncodeOfDecodeIsWord : Prop :=
  ∀ (strict : Bool) (w : Word),
    (strict = false → w.extractLsb' 12 4 = 0x5#4 ∨ w.extractLsb' 12 4 = 0x9#4 → w.extractLsb' 0 4 = 0#4) →
    encode (decode strict w) = w

/-- Decoding is total and gives only well-formed instructions; a word is UNKNOWN exactly when it lies in the unknown space of
30_encoding.md section 4, class by class. -/
def Obligations.UnknownExactlyTheUnknownSpace : Prop :=
  ∀ (strict : Bool) (w : Word),
    (decode strict w).wellFormed strict = true ∧
    (decode strict w = .unknown w ↔ WellFormed.unknownWord strict w = true) ∧
    ∀ w', decode strict w = .unknown w' → w' = w

/-- R78: a word selects the row that its bits match, and no two rows match the same word, with `SKIP_REG_STRICT` either way. -/
def Obligations.DecodeSelectsTheMatchingRow : Prop :=
  ∀ (strict : Bool) (w : Word),
    w &&& (opcodeRow strict (decode strict w)).2 = (opcodeRow strict (decode strict w)).1 ∧
    ∀ i : Instr, (∀ w', i ≠ .unknown w') → w &&& (opcodeRow strict i).2 = (opcodeRow strict i).1 →
      opcodeRow strict (decode strict w) = opcodeRow strict i

/-- Words written out from the patterns of R78 decode to the instructions they stand for (30_encoding.md section 3). -/
def Obligations.SampleWordsDecode : Prop :=
  decode true 0x00E0 = .cls ∧ decode true 0x00EE = .ret ∧ decode true 0x1234 = .jp 0x234 ∧
  decode true 0x5AB0 = .seReg 0xA 0xB ∧ decode true 0x63C4 = .ldImm 0x3 0xC4 ∧ decode true 0x8AB5 = .subReg 0xA 0xB ∧
  decode true 0xD12F = .drw 0x1 0x2 0xF ∧ decode true 0xE79E = .skp 0x7 ∧ decode true 0xF365 = .ldVxMem 0x3 ∧
  decode true 0x0123 = .unknown 0x0123

/-! ### The step and the host's transactions -/

/-- R73, R75: when the next transaction is a CYCLE, no fault is recorded and the two bytes at PC (the second at PC + 1) decode to
`i`, the step is `exec i` on the state with the draw flag cleared and PC advanced by 2; and `i` is what the word decodes to whose
high byte is the byte at PC and whose low byte is the byte at PC + 1 (30_encoding.md R70). -/
def Obligations.StepRunsDecodedInstr : Prop :=
  ∀ (s : State) (i : Instr), CycleNext s → s.fault = .noFault →
    decodeBytes s.params.skipRegStrict [s.readByte s.pc.toNat, s.readByte (s.pc.toNat + 1)] = .ok (i, []) →
    step s = exec i { s with drawFlag := false, pc := s.pc + 2, schedule := s.schedule.tail } ∧
    i = decode s.params.skipRegStrict (s.readByte s.pc.toNat ++ s.readByte (s.pc.toNat + 1))

/-- A CYCLE while a fault is recorded changes no state, not even the draw flag (30_encoding.md section 2, decision D16); the
model's own schedule has lost that CYCLE. -/
def Obligations.HaltedCycleChangesNothing : Prop :=
  ∀ s : State, CycleNext s → s.fault ≠ .noFault → step s = .next { s with schedule := s.schedule.tail }

/-- R210: TICK decrements each counter on its own, floors it at 0, and changes nothing else. -/
def Obligations.TickCountsDown : Prop :=
  ∀ (s : State) (rest : List Transaction), s.schedule = .tick :: rest →
    ∃ t, step s = .next t ∧
      t.dt.toNat = s.dt.toNat - 1 ∧ t.st.toNat = s.st.toNat - 1 ∧ t.schedule = rest ∧
      RegsKept [] s t ∧ Kept [.delay, .sound, .schedule] s t

/-- R213: KEYS replaces the whole snapshot and changes nothing else, the latch in particular. -/
def Obligations.KeysReplacesSnapshot : Prop :=
  ∀ (s : State) (snapshot : Vector Bool 16) (rest : List Transaction), s.schedule = .keys snapshot :: rest →
    ∃ t, step s = .next t ∧
      (∀ k : Nibble, t.keyDown k = snapshot[k.toNat]'(k.isLt)) ∧ t.schedule = rest ∧
      RegsKept [] s t ∧ Kept [.keys, .schedule] s t

/-- R164: REFRESH takes WAITING to REFRESH_FINISHED, is a no-op in the other two states, and changes nothing else, whatever `dw`
and the fault register hold. -/
def Obligations.RefreshAdvancesWaiting : Prop :=
  ∀ (s : State) (rest : List Transaction), s.schedule = .refresh :: rest →
    ∃ t, step s = .next t ∧
      t.dwstate = (if s.dwstate = .waiting then .refreshFinished else s.dwstate) ∧ t.schedule = rest ∧
      RegsKept [] s t ∧ Kept [.dwstate, .schedule] s t

/-- R215, R216: READ_FB answers the framebuffer, READ_TIMERS answers DT and ST, and neither changes any state. -/
def Obligations.ReadsAnswerAndChangeNothing : Prop :=
  ∀ (s : State) (rest : List Transaction),
    (s.schedule = .readFb :: rest → step s = .next { s with schedule := rest } ∧ s.respond .readFb = .framebuffer s.fb) ∧
    (s.schedule = .readTimers :: rest → step s = .next { s with schedule := rest } ∧ s.respond .readTimers = .timers s.dt s.st)

/-- READ_STATUS answers the STATUS view and changes no state; the view's fields stand where 10_state.md section 10 (decision D24)
puts them, the codes 3 never occur and the reserved bits are 0. -/
def Obligations.StatusViewLayout : Prop :=
  ∀ (s : State) (rest : List Transaction), s.schedule = .readStatus :: rest →
    step s = .next { s with schedule := rest } ∧
    ∃ w, s.respond .readStatus = .status w ∧
      (w.extractLsb' 0 2).toNat = (match s.dwstate with | .free => 0 | .waiting => 1 | .refreshFinished => 2) ∧
      w.getLsbD 2 = s.latch.isSome ∧
      w.extractLsb' 3 4 = (match s.latch with | none => 0#4 | some k => k) ∧
      w.getLsbD 7 = s.drawFlag ∧
      (w.extractLsb' 8 2).toNat = (match s.fault with | .noFault => 0 | .stackUnderflow => 1 | .stackOverflow => 2) ∧
      w.extractLsb' 10 6 = 0#6

/-- Every step answers a next state, an exception included: taking one writes the fault register, and a CYCLE of the halted CORE
answers the state again (60_exceptions.md section 1; 30_encoding.md sections 2 and 4). That a fault is a next state and not a fault
outcome of the step is the model's reading (log entry 5, DEDUCED). -/
def Obligations.StepAlwaysAnswers : Prop := ∀ s : State, ∃ t, step s = .next t

/-! ### Construction and reset -/

/-- A ROM of at most 0xE00 bytes (decision D21) is placed verbatim from 0x200, the 80 bytes from 0x050 on are those of the parameter
`FONT` (decisions D2 and D3; their place is a constant of the model, log entry 8), and PC is 0x0200 (20_memory.md section 3;
70_reset_and_hazards.md section 1). In `State.reset`, `FONT` has the value the spec gives it, byte for byte. -/
def Obligations.ConstructPlacesRom : Prop :=
  (∀ (p : Params) (rom : List Byte), rom.length ≤ 0xE00 →
    ∃ t, construct p (some rom) = .next t ∧ t.pc = 0x0200 ∧
      (∀ (j : Nat) (h : j < rom.length), t.readByte (0x200 + j) = rom[j]) ∧
      (∀ (k : Nat) (h : k < 80), t.readByte (0x050 + k) = p.font[k])) ∧
  (List.range 80).map (fun k => State.reset.readByte (0x050 + k)) = specFont

/-- What CONSTRUCT leaves in every other piece of state (10_state.md section 11, decision D18): zero memory outside the font and the
ROM, zero registers and timers, an empty stack, a clear screen, released keys, no latch, FREE, no fault, a clear draw flag, and
the given parameters. (`draws` and `schedule` are the model's own and are not spoken of.) -/
def Obligations.ConstructResetValues : Prop :=
  ∀ (p : Params) (rom : List Byte), rom.length ≤ 0xE00 →
    ∃ t, construct p (some rom) = .next t ∧
      (∀ a < 0x1000, (a < 0x050 ∨ 0x0A0 ≤ a ∧ a < 0x200 ∨ 0x200 + rom.length ≤ a) → t.readByte a = 0) ∧
      (∀ r, t.reg r = 0) ∧ t.i = 0 ∧ t.stack = [] ∧ t.dt = 0 ∧ t.st = 0 ∧
      (∀ r c, Framebuffer.pixel t.fb r c = false) ∧ (∀ k, t.keyDown k = false) ∧ t.latch = none ∧
      t.dwstate = .free ∧ t.fault = .noFault ∧ t.drawFlag = false ∧ t.params = p

/-- A ROM that could not be read, or of more than 0xE00 bytes, gives a load failure and no CORE (70_reset_and_hazards.md section 1,
decisions D21 and D32). -/
def Obligations.ConstructLoadFailures : Prop :=
  ∀ p : Params,
    construct p none = .refused .romUnreadable ∧
    ∀ rom : List Byte, 0xE00 < rom.length → construct p (some rom) = .refused .romTooLarge

/-- `State.reset` is what CONSTRUCT gives for an empty ROM and the parameters `resetParams` (a DESIGN CHOICE, log entry 1), and it
meets the invariant. -/
def Obligations.ResetIsConstructedAndMeetsInv : Prop :=
  construct resetParams (some []) = .next State.reset ∧ State.reset.Inv

/-- A CORE of any parameters and any ROM that loads starts in the invariant (20_memory.md, 10_state.md sections 4 and 8). -/
def Obligations.ConstructMeetsInv : Prop :=
  ∀ (p : Params) (rom : Option (List Byte)) (t : State), construct p rom = .next t → t.Inv

/-! ### Control transfer and skips -/

/-- RET pops the top entry into PC; on an empty stack it raises StackUnderflow, which writes the fault register and nothing else
(40_flow.md section 1, decision D16). -/
def Obligations.RetPopsOrRaisesUnderflow : Prop :=
  ∀ s : State,
    (∀ top rest, s.stack = top :: rest →
      ∃ t, exec .ret s = .next t ∧ t.pc = top ∧ t.stack = rest ∧ RegsKept [] s t ∧ Kept [.pc, .stack] s t) ∧
    (s.stack = [] →
      ∃ t, exec .ret s = .next t ∧ t.fault = .stackUnderflow ∧ RegsKept [] s t ∧ Kept [.fault] s t)

/-- R102: JP sets PC to nnn, zero-extended, and changes nothing else. -/
def Obligations.JpSetsPc : Prop :=
  ∀ (nnn : Addr) (s : State),
    ∃ t, exec (.jp nnn) s = .next t ∧ t.pc.toNat = nnn.toNat ∧ RegsKept [] s t ∧ Kept [.pc] s t

/-- CALL pushes the address after it and jumps; with the stack at `STACK_DEPTH` it raises StackOverflow, which writes the fault
register and nothing else (40_flow.md section 1, decision D15). `STACK_DEPTH` is positive (00_scope.md section 3), so a CALL with an
empty stack always pushes. -/
def Obligations.CallPushesOrRaisesOverflow : Prop :=
  ∀ (nnn : Addr) (s : State),
    (s.params.stackDepth ≠ some s.stack.length →
      ∃ t, exec (.call nnn) s = .next t ∧ t.pc.toNat = nnn.toNat ∧ t.stack = s.pc :: s.stack ∧
        RegsKept [] s t ∧ Kept [.pc, .stack] s t) ∧
    (s.params.stackDepth = some s.stack.length →
      ∃ t, exec (.call nnn) s = .next t ∧ t.fault = .stackOverflow ∧ RegsKept [] s t ∧ Kept [.fault] s t) ∧
    (s.params.Sane → s.stack = [] →
      ∃ t, exec (.call nnn) s = .next t ∧ t.pc.toNat = nnn.toNat ∧ t.stack = [s.pc] ∧ t.fault = s.fault)

/-- JP V0 adds V0 to nnn, or V[nnn[11:8]] with `jumpx`, without masking the sum (40_flow.md section 1, decision D33). -/
def Obligations.JpV0AddsOffset : Prop :=
  ∀ (nnn : Addr) (s : State),
    ∃ t, exec (.jpV0 nnn) s = .next t ∧
      t.pc.toNat = nnn.toNat +
        (if s.params.quirks.jumpx then (s.reg (nnn.extractLsb' 8 4)).toNat else (s.reg 0x0).toNat) ∧
      RegsKept [] s t ∧ Kept [.pc] s t

/-- R105, R106: SE and SNE with an immediate skip exactly two bytes on equality, or on inequality. -/
def Obligations.ImmediateSkips : Prop :=
  ∀ (x : Nibble) (kk : Byte) (s : State),
    (∃ t, exec (.seImm x kk) s = .next t ∧ t.pc = (if s.reg x = kk then s.pc + 2 else s.pc) ∧
      RegsKept [] s t ∧ Kept [.pc] s t) ∧
    (∃ t, exec (.sneImm x kk) s = .next t ∧ t.pc = (if s.reg x = kk then s.pc else s.pc + 2) ∧
      RegsKept [] s t ∧ Kept [.pc] s t)

/-- R107, R108: SE and SNE with two registers; 5xyN and 9xyN execute as 5xy0 and 9xy0 when `SKIP_REG_STRICT` is false, and only
with N = 0 when it is true. -/
def Obligations.RegisterSkips : Prop :=
  ∀ (x y : Nibble) (s : State),
    (∃ t, exec (.seReg x y) s = .next t ∧ t.pc = (if s.reg x = s.reg y then s.pc + 2 else s.pc) ∧
      RegsKept [] s t ∧ Kept [.pc] s t) ∧
    (∃ t, exec (.sneReg x y) s = .next t ∧ t.pc = (if s.reg x = s.reg y then s.pc else s.pc + 2) ∧
      RegsKept [] s t ∧ Kept [.pc] s t) ∧
    ∀ (strict : Bool) (n : Nibble),
      decode strict (0x5#4 ++ x ++ y ++ n) =
        (if n = 0 ∨ strict = false then .seReg x y else .unknown (0x5#4 ++ x ++ y ++ n)) ∧
      decode strict (0x9#4 ++ x ++ y ++ n) =
        (if n = 0 ∨ strict = false then .sneReg x y else .unknown (0x9#4 ++ x ++ y ++ n))

/-- R79: a word that decodes to UNKNOWN has no effect beyond the fetch's: PC advances by 2 and the draw flag is cleared. -/
def Obligations.UnknownIsNoOp : Prop :=
  (∀ (w : Word) (s : State), exec (.unknown w) s = .next s) ∧
  ∀ (s : State) (w : Word), CycleNext s → s.fault = .noFault → s.currentInstr = .unknown w →
    ∃ t, step s = .next t ∧ t.pc = s.pc + 2 ∧ t.drawFlag = false ∧ t.schedule = s.schedule.tail ∧
      RegsKept [] s t ∧ Kept [.pc, .drawFlag, .schedule] s t

/-! ### Registers, arithmetic, logic, random -/

/-- R120, R122: LD Vx, kk and LD Vx, Vy write V[x] and nothing else. -/
def Obligations.RegisterLoads : Prop :=
  ∀ (x y : Nibble) (kk : Byte) (s : State),
    (∃ t, exec (.ldImm x kk) s = .next t ∧ t.reg x = kk ∧ RegsKept [x] s t ∧ Kept [] s t) ∧
    (∃ t, exec (.ldReg x y) s = .next t ∧ t.reg x = s.reg y ∧ RegsKept [x] s t ∧ Kept [] s t)

/-- R121: ADD Vx, kk wraps mod 256 and writes no flag. -/
def Obligations.AddImmWrapsWithoutFlag : Prop :=
  ∀ (x : Nibble) (kk : Byte) (s : State),
    ∃ t, exec (.addImm x kk) s = .next t ∧ (t.reg x).toNat = ((s.reg x).toNat + kk.toNat) % 256 ∧
      RegsKept [x] s t ∧ Kept [] s t

/-- OR, AND and XOR write V[x] bit by bit; VF is 0 with `vfreset`, a FREE VALUE without it (whatever the byte is: log entry 2), and
the result when x = F and `vfreset` is clear (41_alu.md section 2, decision D10). -/
def Obligations.LogicResultAndFlag : Prop :=
  ∀ (x y : Nibble) (s : State),
    (∃ t, exec (.orReg x y) s = .next t ∧ LogicDone s t x (s.reg x ||| s.reg y)) ∧
    (∃ t, exec (.andReg x y) s = .next t ∧ LogicDone s t x (s.reg x &&& s.reg y)) ∧
    (∃ t, exec (.xorReg x y) s = .next t ∧ LogicDone s t x (s.reg x ^^^ s.reg y))

/-- R127: ADD Vx, Vy gives the sum mod 256 and the carry; with x = F, VF ends as the carry. -/
def Obligations.AddRegGivesSumAndCarry : Prop :=
  ∀ (x y : Nibble) (s : State),
    ∃ t, exec (.addReg x y) s = .next t ∧
      ResultAndFlag s t x (((s.reg x).toNat + (s.reg y).toNat) % 256)
        (if 255 < (s.reg x).toNat + (s.reg y).toNat then 1 else 0)

/-- R128, R130: SUB gives V[x] - V[y] and SUBN gives V[y] - V[x], mod 256, with VF 0 exactly on a borrow. -/
def Obligations.SubtractGivesDifferenceAndNotBorrow : Prop :=
  ∀ (x y : Nibble) (s : State),
    (∃ t, exec (.subReg x y) s = .next t ∧
      ResultAndFlag s t x (((s.reg x).toNat + 256 - (s.reg y).toNat) % 256)
        (if (s.reg x).toNat < (s.reg y).toNat then 0 else 1)) ∧
    (∃ t, exec (.subnReg x y) s = .next t ∧
      ResultAndFlag s t x (((s.reg y).toNat + 256 - (s.reg x).toNat) % 256)
        (if (s.reg y).toNat < (s.reg x).toNat then 0 else 1))

/-- R129, R131: SHR and SHL shift V[y], or V[x] with `shiftx`, by one bit, and VF is the bit shifted out. -/
def Obligations.ShiftsGiveBitShiftedOut : Prop :=
  ∀ (x y : Nibble) (s : State) (v : Nat),
    v = (if s.params.quirks.shiftx then (s.reg x).toNat else (s.reg y).toNat) →
    (∃ t, exec (.shrReg x y) s = .next t ∧ ResultAndFlag s t x (v / 2) (v % 2)) ∧
    (∃ t, exec (.shlReg x y) s = .next t ∧ ResultAndFlag s t x (v * 2 % 256) (v / 128))

/-- RND writes a FREE byte AND kk to V[x] (log entry 2), so a bit outside kk is 0; it draws one value and writes no flag
(41_alu.md section 3, decision D22). -/
def Obligations.RndMasksAFreeByte : Prop :=
  ∀ (x : Nibble) (kk : Byte) (s : State),
    ∃ t, exec (.rnd x kk) s = .next t ∧ t.reg x = Config.freeByte s.draws &&& kk ∧ t.draws = s.draws + 1 ∧
      (∀ k, kk.getLsbD k = false → (t.reg x).getLsbD k = false) ∧ RegsKept [x] s t ∧ Kept [.draws] s t

/-! ### Display -/

/-- R150: CLS turns every pixel off and sets the draw flag, whatever `dw` and `dwstate` are, and changes nothing else. -/
def Obligations.ClsClearsScreen : Prop :=
  ∀ s : State,
    ∃ t, exec .cls s = .next t ∧ (∀ r c, Framebuffer.pixel t.fb r c = false) ∧ t.drawFlag = true ∧
      RegsKept [] s t ∧ Kept [.framebuffer, .drawFlag] s t

/-- A performed draw, said by the loops of the machine, is the pixel-by-pixel one of `Drawn`: every pixel XORed with the sprite
(wrapped, or clipped), VF the collision, the draw flag set, and nothing else changed but a draw-wait state that goes back to FREE
(42_display.md sections 2 and 3, decisions D4, D11, D20 and D27). -/
def Obligations.DrawIsPixelwiseXor : Prop :=
  ∀ (x y n : Nibble) (s : State), DrawReady s →
    ∃ t, exec (.drw x y n) s = .next t ∧ Drawn s t x y n ∧
      t.dwstate = (if s.params.quirks.dw then .free else s.dwstate) ∧ Kept [.framebuffer, .drawFlag, .dwstate] s t

/-- R161, R162: with `dw` set, DRW in FREE or WAITING rewinds PC and waits, and after a refresh it draws and goes back to FREE;
REFRESH takes WAITING to REFRESH_FINISHED and leaves the other states; with `dw` clear DRW draws at once. -/
def Obligations.DrawWaitTransitions : Prop :=
  ∀ (x y n : Nibble) (s : State),
    (s.params.quirks.dw = true → s.dwstate = .free ∨ s.dwstate = .waiting →
      ∃ t, exec (.drw x y n) s = .next t ∧ t.pc = s.pc - 2 ∧ t.dwstate = .waiting ∧
        RegsKept [] s t ∧ Kept [.pc, .dwstate] s t) ∧
    (s.params.quirks.dw = true → s.dwstate = .refreshFinished →
      ∃ t, exec (.drw x y n) s = .next t ∧ t = { s.blit x y n with dwstate := .free } ∧ t.pc = s.pc) ∧
    (s.params.quirks.dw = false → exec (.drw x y n) s = .next (s.blit x y n) ∧ (s.blit x y n).dwstate = s.dwstate) ∧
    (s.dwstate = .waiting → transact .refresh s = .next { s with dwstate := .refreshFinished }) ∧
    (s.dwstate ≠ .waiting → transact .refresh s = .next s)

/-- Drawing the same sprite at the same place twice restores the framebuffer, and the second draw sets VF to 1 exactly when some
drawn sprite bit fell on a pixel that was off before the first (42_display.md section 3, derived there; conflict C5). With x = F
or y = F the first draw changes the place, so those forms are outside the rule's premise. -/
def Obligations.DrawTwiceRestores : Prop :=
  ∀ (x y n : Nibble) (s t u : State), x ≠ 0xF → y ≠ 0xF → s.params.quirks.dw = false →
    exec (.drw x y n) s = .next t → exec (.drw x y n) t = .next u →
    u.fb = s.fb ∧ (u.reg 0xF = 1 ↔ ∃ r c, spriteOn s x y n r c = true ∧ Framebuffer.pixel s.fb r c = false)

/-- With `dw` set, a DRW at PC that has had no refresh stalls in its first CYCLE, and after one REFRESH the next CYCLE draws,
advances PC and returns to FREE (42_display.md section 3; 70_reset_and_hazards.md section 3). -/
def Obligations.DrawWaitEndsAfterRefresh : Prop :=
  ∀ (x y n : Nibble) (s : State) (rest : List Transaction),
    s.fault = .noFault → s.params.quirks.dw = true → s.dwstate ≠ .refreshFinished → s.currentInstr = .drw x y n →
    s.schedule = .cycle :: .refresh :: .cycle :: rest →
    ∃ t, core.run 3 s = .next t ∧ Drawn s t x y n ∧ t.pc = s.pc + 2 ∧ t.dwstate = .free ∧ t.schedule = rest ∧
      Kept [.framebuffer, .drawFlag, .pc, .dwstate, .schedule] s t

/-! ### Keyboard -/

/-- SKP skips two bytes when the key V[x] is pressed and SKNP when it is not; for V[x] above 0xF the answer is a FREE VALUE (log
entry 2), so both outcomes are admitted (43_keyboard.md, decision D12). -/
def Obligations.KeySkips : Prop :=
  ∀ (x : Nibble) (s : State) (drawn : Nat), drawn = (if (s.reg x).toNat < 16 then s.draws else s.draws + 1) →
    (∃ t, exec (.skp x) s = .next t ∧ t.pc = (if pressed s (s.reg x) then s.pc + 2 else s.pc) ∧ t.draws = drawn ∧
      RegsKept [] s t ∧ Kept [.pc, .draws] s t) ∧
    (∃ t, exec (.sknp x) s = .next t ∧ t.pc = (if pressed s (s.reg x) then s.pc else s.pc + 2) ∧ t.draws = drawn ∧
      RegsKept [] s t ∧ Kept [.pc, .draws] s t)

/-- R173, R175: the four cases of the key wait. No latch and no key: rewind. No latch and a key: latch the lowest and rewind. The
latched key still pressed: rewind. The latched key released: V[x] gets it, the latch is cleared and PC stays. -/
def Obligations.KeyWaitCases : Prop :=
  ∀ (x : Nibble) (s : State),
    (s.latch = none → (∀ k, s.keyDown k = false) →
      ∃ t, exec (.ldVxK x) s = .next t ∧ t.pc = s.pc - 2 ∧ RegsKept [] s t ∧ Kept [.pc] s t) ∧
    (∀ k, s.latch = none → s.keyDown k = true → (∀ j, j < k → s.keyDown j = false) →
      ∃ t, exec (.ldVxK x) s = .next t ∧ t.latch = some k ∧ t.pc = s.pc - 2 ∧
        RegsKept [] s t ∧ Kept [.latch, .pc] s t) ∧
    (∀ k, s.latch = some k → s.keyDown k = true →
      ∃ t, exec (.ldVxK x) s = .next t ∧ t.pc = s.pc - 2 ∧ RegsKept [] s t ∧ Kept [.pc] s t) ∧
    (∀ k, s.latch = some k → s.keyDown k = false →
      ∃ t, exec (.ldVxK x) s = .next t ∧ (t.reg x).toNat = k.toNat ∧ t.latch = none ∧
        RegsKept [x] s t ∧ Kept [.latch] s t)

/-- A key wait at PC completes after a press of one key and its release, each seen by a CYCLE: V[x] holds the key's code and PC has
passed the instruction (43_keyboard.md; 60_exceptions.md section 5). -/
def Obligations.KeyWaitEndsAfterPressAndRelease : Prop :=
  ∀ (x k : Nibble) (s : State) (down up : Vector Bool 16) (rest : List Transaction),
    s.fault = .noFault → s.latch = none → s.currentInstr = .ldVxK x →
    down[k.toNat]'(k.isLt) = true → (∀ j : Nibble, j < k → down[j.toNat]'(j.isLt) = false) →
    up[k.toNat]'(k.isLt) = false →
    s.schedule = .keys down :: .cycle :: .keys up :: .cycle :: rest →
    ∃ t, core.run 4 s = .next t ∧ (t.reg x).toNat = k.toNat ∧ t.pc = s.pc + 2 ∧ t.latch = none ∧ t.keys = up ∧
      t.schedule = rest ∧ RegsKept [x] s t ∧ Kept [.pc, .keys, .drawFlag, .schedule] s t

/-! ### Index register, timers, memory transfer -/

/-- R180: LD I sets I to nnn, zero-extended. -/
def Obligations.LdISetsIndex : Prop :=
  ∀ (nnn : Addr) (s : State),
    ∃ t, exec (.ldI nnn) s = .next t ∧ t.i.toNat = nnn.toNat ∧ RegsKept [] s t ∧ Kept [.index] s t

/-- R181, R182, R183: the moves between V[x] and the timers; reading DT does not change it, and writing one timer leaves the
other. -/
def Obligations.TimerMoves : Prop :=
  ∀ (x : Nibble) (s : State),
    (∃ t, exec (.ldVxDt x) s = .next t ∧ t.reg x = s.dt ∧ RegsKept [x] s t ∧ Kept [] s t) ∧
    (∃ t, exec (.ldDtVx x) s = .next t ∧ t.dt = s.reg x ∧ RegsKept [] s t ∧ Kept [.delay] s t) ∧
    (∃ t, exec (.ldStVx x) s = .next t ∧ t.st = s.reg x ∧ RegsKept [] s t ∧ Kept [.sound] s t)

/-- ADD I adds V[x] mod 0x10000 and sets VF to 1 when the exact sum exceeds 0xFFF; otherwise VF is not written
(44_index_timer_memory.md section 1, decision D8; conflict C3). -/
def Obligations.AddIOverflowFlag : Prop :=
  ∀ (x : Nibble) (s : State),
    ∃ t, exec (.addIVx x) s = .next t ∧ t.i.toNat = (s.i.toNat + (s.reg x).toNat) % 0x10000 ∧
      t.reg 0xF = (if 0xFFF < s.i.toNat + (s.reg x).toNat then 1 else s.reg 0xF) ∧
      RegsKept [0xF] s t ∧ Kept [.index] s t

/-- LD F points I at the glyph of the full 8-bit V[x], 0x050 + 5 V[x] (44_index_timer_memory.md section 1, decision D13). -/
def Obligations.LdFPointsAtGlyph : Prop :=
  ∀ (x : Nibble) (s : State),
    ∃ t, exec (.ldFVx x) s = .next t ∧ t.i.toNat = 0x050 + 5 * (s.reg x).toNat ∧ RegsKept [] s t ∧ Kept [.index] s t

/-- R186: LD B stores the hundreds, tens and units of V[x] at I, I + 1 and I + 2 (masked to 12 bits), leaves I and every other byte
alone. -/
def Obligations.LdBStoresDecimalDigits : Prop :=
  ∀ (x : Nibble) (s : State),
    ∃ t, exec (.ldBVx x) s = .next t ∧
      (t.readByte s.i.toNat).toNat = (s.reg x).toNat / 100 ∧
      (t.readByte (s.i.toNat + 1)).toNat = (s.reg x).toNat / 10 % 10 ∧
      (t.readByte (s.i.toNat + 2)).toNat = (s.reg x).toNat % 10 ∧
      (∀ a, (∀ k < 3, a % 0x1000 ≠ (s.i.toNat + k) % 0x1000) → t.readByte a = s.readByte a) ∧
      RegsKept [] s t ∧ Kept [.memory] s t

/-- R187: LD [I], Vx stores V0 to V[x], both ends included, from I on (masked to 12 bits), leaves every other byte alone, and
advances I by x + 1 mod 0x10000 exactly when `meminc` is set. -/
def Obligations.LdMemStoresRegisters : Prop :=
  ∀ (x : Nibble) (s : State),
    ∃ t, exec (.ldMemVx x) s = .next t ∧
      (∀ r : Nibble, r ≤ x → t.readByte (s.i.toNat + r.toNat) = s.reg r) ∧
      (∀ a, (∀ k ≤ x.toNat, a % 0x1000 ≠ (s.i.toNat + k) % 0x1000) → t.readByte a = s.readByte a) ∧
      t.i.toNat = (if s.params.quirks.meminc then (s.i.toNat + x.toNat + 1) % 0x10000 else s.i.toNat) ∧
      RegsKept [] s t ∧ Kept [.memory, .index] s t

/-- R188: LD Vx, [I] loads V0 to V[x], both ends included, from I on (masked to 12 bits), leaves the other registers and all of
memory alone, and advances I by x + 1 mod 0x10000 exactly when `meminc` is set. -/
def Obligations.LdRegistersFromMem : Prop :=
  ∀ (x : Nibble) (s : State),
    ∃ t, exec (.ldVxMem x) s = .next t ∧
      (∀ r : Nibble, t.reg r = if r ≤ x then s.readByte (s.i.toNat + r.toNat) else s.reg r) ∧
      t.i.toNat = (if s.params.quirks.meminc then (s.i.toNat + x.toNat + 1) % 0x10000 else s.i.toNat) ∧
      Kept [.index] s t

/-! ### Whole-machine rules -/

/-- The frame of every instruction: whatever its operands, it changes no piece of state but those its rules name, and no general
register but those of 10_state.md section 1; the key snapshot, the parameters and the schedule are changed by none. -/
def Obligations.EveryInstrKeepsItsFrame : Prop :=
  ∀ (i : Instr) (s t : State), exec i s = .next t →
    Kept (mayChange i) s t ∧ ∀ r, ¬ mayWrite i r → t.reg r = s.reg r

/-- The only exceptions are StackUnderflow, from RET with an empty stack, and StackOverflow, from CALL at capacity; every other
execution leaves the fault register alone (60_exceptions.md section 1, decision D16). -/
def Obligations.OnlyStackInstrsRaiseFaults : Prop :=
  ∀ (i : Instr) (s t : State), exec i s = .next t →
    t.fault = s.fault ∨
    (i = .ret ∧ s.stack = [] ∧ t.fault = .stackUnderflow) ∨
    ((∃ nnn, i = .call nnn) ∧ s.params.stackDepth = some s.stack.length ∧ t.fault = .stackOverflow)

/-- After a CYCLE of a running CORE the draw flag is set exactly when that CYCLE ran CLS or performed a DRW, and otherwise the
framebuffer is unchanged (10_state.md section 9, decision D20). -/
def Obligations.DrawFlagTellsScreenWrites : Prop :=
  ∀ (s t : State), CycleNext s → s.fault = .noFault → step s = .next t →
    (t.drawFlag = true ↔ s.currentInstr = .cls ∨ (∃ x y n, s.currentInstr = .drw x y n) ∧ DrawReady s) ∧
    (t.drawFlag = false → t.fb = s.fb)

/-- A free value is drawn only where the source leaves a value open: OR, AND and XOR with `vfreset` clear and x not F, RND, and SKP
and SKNP with V[x] above 0xF; each draws exactly one (93_implementation_defined.md section 1, U3, U4, U8; log entry 2). -/
def Obligations.FreeValuesOnlyWhereOpen : Prop :=
  ∀ (i : Instr) (s t : State), exec i s = .next t →
    t.draws = s.draws ∨
    t.draws = s.draws + 1 ∧
      ((∃ x y, (i = .orReg x y ∨ i = .andReg x y ∨ i = .xorReg x y) ∧ s.params.quirks.vfreset = false ∧ x ≠ 0xF) ∨
       (∃ x kk, i = .rnd x kk) ∨
       (∃ x, (i = .skp x ∨ i = .sknp x) ∧ 0xF < (s.reg x).toNat))

/-- No instruction reads ST or the draw flag: two executions from states that differ only in them agree on all the rest
(10_state.md sections 5 and 9). The free value an instruction draws is the same one in both, since both have drawn as many (log
entry 2). -/
def Obligations.SoundTimerAndDrawFlagUnread : Prop :=
  ∀ (i : Instr) (s t u : State) (b : Byte) (d : Bool),
    exec i s = .next t → exec i { s with st := b, drawFlag := d } = .next u →
    { u with st := t.st, drawFlag := t.drawFlag } = t

/-- Once a fault is recorded it stays, and no transaction changes a register, I, PC, the stack, memory, the framebuffer, the latch or
the draw flag; TICK, KEYS and REFRESH still act on the timers, the snapshot and the draw-wait state (60_exceptions.md sections 1
and 4, decisions D16 and D26). -/
def Obligations.FaultHaltsForGood : Prop :=
  ∀ s t : State, s.fault ≠ .noFault → step s = .next t →
    RegsKept [] s t ∧ Kept [.delay, .sound, .keys, .dwstate, .schedule] s t

/-- No transaction changes the construction parameters, and each transaction is taken from the schedule once (00_scope.md sections 3
and 4); only KEYS changes the snapshot (10_state.md section 7). -/
def Obligations.ParamsFixedAndScheduleTaken : Prop :=
  ∀ s t : State, step s = .next t →
    t.params = s.params ∧ t.schedule = s.schedule.tail ∧
    ((∀ snapshot rest, s.schedule ≠ .keys snapshot :: rest) → t.keys = s.keys)

/-- The invariant every transaction keeps, from any state that has it: canonical memory, a stack within `STACK_DEPTH`, an idle
draw-wait machine unless `dw` is set, and PC on a key wait while a key is latched (20_memory.md; 10_state.md sections 4, 7
and 8; 43_keyboard.md). -/
def Obligations.StepKeepsInv : Prop := ∀ s t : State, s.Inv → step s = .next t → t.Inv

/-! ### The fetched bytes, and the view of the parameters -/

/-- R70: the word at PC is the byte at PC, then the byte at PC + 1 as its low half; every instruction is two bytes long, bits 15 to 8
of its word first, and those bytes decode to it, whatever bytes follow. -/
def Obligations.FetchAndBytesAreBigEndian : Prop :=
  (∀ s : State, s.currentInstr = decode s.params.skipRegStrict (s.readByte s.pc.toNat ++ s.readByte (s.pc.toNat + 1))) ∧
  ∀ (strict : Bool) (i : Instr) (rest : List Byte),
    encodeBytes i = [(encode i).extractLsb' 8 8, (encode i).extractLsb' 0 8] ∧
    (i.wellFormed strict = true → decodeBytes strict (encodeBytes i ++ rest) = .ok (i, rest))

/-- The QUIRKS view holds `dw`, `vfreset`, `meminc`, `clip`, `shiftx` and `jumpx` in bits 0 to 5, and its reserved bits are 0; what
CONSTRUCT makes shows the quirks it was given (10_state.md section 10, decision D24). -/
def Obligations.QuirksViewLayout : Prop :=
  (∀ s : State,
    s.quirksView.getLsbD 0 = s.params.quirks.dw ∧ s.quirksView.getLsbD 1 = s.params.quirks.vfreset ∧
    s.quirksView.getLsbD 2 = s.params.quirks.meminc ∧ s.quirksView.getLsbD 3 = s.params.quirks.clip ∧
    s.quirksView.getLsbD 4 = s.params.quirks.shiftx ∧ s.quirksView.getLsbD 5 = s.params.quirks.jumpx ∧
    s.quirksView.extractLsb' 6 2 = 0#2) ∧
  ∀ (p : Params) (rom : Option (List Byte)) (t : State), construct p rom = .next t → t.params.quirks = p.quirks
end

