-- ==== Sys2Proof/Laws/Memory.lean ====
section
/-! SUPPORT. The laws of memory: a read after a write, and the canonical form kept by every memory operation. -/

namespace Sys2Proof.Machine

open Sys2Proof.Config

variable {f : Vector Byte fontSize}

theorem Memory.get_erase_same (m : List Host.Cell) (a : Nat) : Memory.get f (Memory.erase a m) a = Memory.blank f a := by
  induction m with
  | nil => rfl
  | cons c rest ih =>
    obtain ⟨k, b⟩ := c
    by_cases h : k = a <;> simp [Memory.erase, Memory.get, h, ih]

theorem Memory.get_erase_ne (m : List Host.Cell) {a p : Nat} (hp : p ≠ a) :
    Memory.get f (Memory.erase a m) p = Memory.get f m p := by
  induction m with
  | nil => rfl
  | cons c rest ih =>
    obtain ⟨k, b⟩ := c
    by_cases h : k = a
    · subst h
      simp [Memory.erase, Memory.get, ih, hp.symm]
    · simp [Memory.erase, Memory.get, h, ih]

theorem Memory.get_insert_ne (m : List Host.Cell) {a p : Nat} (b : Byte) (hp : p ≠ a) :
    Memory.get f (Memory.insert a b m) p = Memory.get f m p := by
  induction m with
  | nil => simp [Memory.insert, Memory.get, hp.symm]
  | cons c rest ih =>
    obtain ⟨k, d⟩ := c
    by_cases h : a < k <;> simp [Memory.insert, Memory.get, h, ih, hp.symm]

/-- An entry inserted where no entry for its address stands is the one read. -/
theorem Memory.get_insert_erase (m : List Host.Cell) (a : Nat) (b : Byte) :
    Memory.get f (Memory.insert a b (Memory.erase a m)) a = b := by
  induction m with
  | nil => simp [Memory.erase, Memory.insert, Memory.get]
  | cons c rest ih =>
    obtain ⟨k, d⟩ := c
    by_cases h : k = a
    · simp [Memory.erase, h, ih]
    · by_cases h' : a < k <;> simp [Memory.erase, Memory.insert, Memory.get, h, h', ih]

/-- A read after a write gives the value written at that address and the old byte elsewhere, in any memory. -/
theorem Memory.get_put (m : List Host.Cell) (a : Nat) (b : Byte) (p : Nat) :
    Memory.get f (Memory.put f m a b) p = if p = a then b else Memory.get f m p := by
  unfold Memory.put
  by_cases hp : p = a
  · subst hp
    by_cases hb : b = Memory.blank f p
    · simp [hb, Memory.get_erase_same]
    · simp [hb, Memory.get_insert_erase]
  · by_cases hb : b = Memory.blank f a
    · simp [hb, hp, Memory.get_erase_ne]
    · simp [hb, hp, Memory.get_insert_ne, Memory.get_erase_ne]

theorem Memory.wfFrom_mono {lo lo' : Nat} (h : lo' ≤ lo) {m : List Host.Cell} (hm : Memory.wfFrom f lo m = true) :
    Memory.wfFrom f lo' m = true := by
  cases m with
  | nil => rfl
  | cons c rest =>
    obtain ⟨k, b⟩ := c
    simp only [Memory.wfFrom, Bool.and_eq_true, decide_eq_true_eq] at hm ⊢
    exact ⟨⟨⟨by omega, hm.1.1.2⟩, hm.1.2⟩, hm.2⟩

theorem Memory.wfFrom_erase (a : Nat) (m : List Host.Cell) : ∀ lo, Memory.wfFrom f lo m = true →
    Memory.wfFrom f lo (Memory.erase a m) = true := by
  induction m with
  | nil => intro lo _; rfl
  | cons c rest ih =>
    obtain ⟨k, b⟩ := c
    intro lo h
    simp only [Memory.wfFrom, Bool.and_eq_true, decide_eq_true_eq] at h
    by_cases hk : k = a
    · simp only [Memory.erase, hk, if_true]
      exact Memory.wfFrom_mono (by omega) (ih _ h.2)
    · simp only [Memory.erase, hk, if_false, Memory.wfFrom, Bool.and_eq_true, decide_eq_true_eq]
      exact ⟨h.1, ih _ h.2⟩

theorem Memory.wfFrom_insert_erase {a : Nat} {b : Byte} (ha : a < memSize) (hb : b ≠ Memory.blank f a) (m : List Host.Cell) :
    ∀ lo, lo ≤ a → Memory.wfFrom f lo m = true → Memory.wfFrom f lo (Memory.insert a b (Memory.erase a m)) = true := by
  induction m with
  | nil =>
    intro lo hlo _
    simp [Memory.erase, Memory.insert, Memory.wfFrom, hlo, ha, hb]
  | cons c rest ih =>
    obtain ⟨k, d⟩ := c
    intro lo hlo h
    simp only [Memory.wfFrom, Bool.and_eq_true, decide_eq_true_eq] at h
    by_cases hk : k = a
    · simp only [Memory.erase, hk, if_true]
      exact ih _ hlo (Memory.wfFrom_mono (by omega) h.2)
    · by_cases hak : a < k
      · simp only [Memory.erase, hk, if_false, Memory.insert, hak, if_true, Memory.wfFrom, Bool.and_eq_true, decide_eq_true_eq]
        exact ⟨⟨⟨hlo, ha⟩, by simpa using hb⟩, ⟨⟨by omega, h.1.1.2⟩, h.1.2⟩, Memory.wfFrom_erase a rest _ h.2⟩
      · simp only [Memory.erase, hk, if_false, Memory.insert, hak, Memory.wfFrom, Bool.and_eq_true, decide_eq_true_eq]
        exact ⟨h.1, ih _ (by omega) h.2⟩

/-- A write keeps the canonical form. -/
theorem Memory.wf_put {m : List Host.Cell} (h : Memory.wf f m = true) {a : Nat} (ha : a < memSize) (b : Byte) :
    Memory.wf f (Memory.put f m a b) = true := by
  unfold Memory.put Memory.wf at *
  by_cases hb : b = Memory.blank f a
  · simpa [hb] using Memory.wfFrom_erase a m 0 h
  · simpa [hb] using Memory.wfFrom_insert_erase ha hb m 0 (Nat.zero_le _) h

/-- `MemWrite` then `MemRead` (00_scope.md R13): the byte written where the masked addresses agree, the old byte elsewhere. -/
theorem State.writeByte_readByte (s : State) (a : Nat) (b : Byte) (p : Nat) :
    (s.writeByte a b).readByte p = if p % memSize = a % memSize then b else s.readByte p := by
  simp [State.writeByte, State.readByte, Memory.get_put]

/-- `MemWrite` keeps the canonical form. -/
theorem State.writeByte_wf {s : State} (h : s.memWf = true) (a : Nat) (b : Byte) : (s.writeByte a b).memWf = true :=
  Memory.wf_put h (Nat.mod_lt _ (by decide)) b

/-- Reading is by the low 12 bits of the address (20_memory.md R51). -/
theorem State.readByte_mod (s : State) (a : Nat) : s.readByte (a % memSize) = s.readByte a := by
  simp [State.readByte]

end Sys2Proof.Machine
end

