-- ==== Sys2Proof/Laws/State.lean ====
section
/-! SUPPORT. What each update of the state does to each field: one lemma per field per update, so that no proof unfolds a record
update. -/

namespace Sys2Proof.Machine

/-! #### setI -/

@[simp] theorem State.setI_v (s : State) (w : Word) : (s.setI w).v = s.v := rfl
@[simp] theorem State.setI_i (s : State) (w : Word) : (s.setI w).i = w := rfl
@[simp] theorem State.setI_pc (s : State) (w : Word) : (s.setI w).pc = s.pc := rfl
@[simp] theorem State.setI_stack (s : State) (w : Word) : (s.setI w).stack = s.stack := rfl
@[simp] theorem State.setI_dt (s : State) (w : Word) : (s.setI w).dt = s.dt := rfl
@[simp] theorem State.setI_st (s : State) (w : Word) : (s.setI w).st = s.st := rfl
@[simp] theorem State.setI_mem (s : State) (w : Word) : (s.setI w).mem = s.mem := rfl
@[simp] theorem State.setI_fb (s : State) (w : Word) : (s.setI w).fb = s.fb := rfl
@[simp] theorem State.setI_keys (s : State) (w : Word) : (s.setI w).keys = s.keys := rfl
@[simp] theorem State.setI_latch (s : State) (w : Word) : (s.setI w).latch = s.latch := rfl
@[simp] theorem State.setI_dwstate (s : State) (w : Word) : (s.setI w).dwstate = s.dwstate := rfl
@[simp] theorem State.setI_fault (s : State) (w : Word) : (s.setI w).fault = s.fault := rfl
@[simp] theorem State.setI_drawFlag (s : State) (w : Word) : (s.setI w).drawFlag = s.drawFlag := rfl
@[simp] theorem State.setI_params (s : State) (w : Word) : (s.setI w).params = s.params := rfl
@[simp] theorem State.setI_draws (s : State) (w : Word) : (s.setI w).draws = s.draws := rfl
@[simp] theorem State.setI_schedule (s : State) (w : Word) : (s.setI w).schedule = s.schedule := rfl
@[simp] theorem State.setI_reg (s : State) (w : Word) (r : Nibble) : (s.setI w).reg r = s.reg r := rfl
@[simp] theorem State.setI_readByte (s : State) (w : Word) (p : Nat) : (s.setI w).readByte p = s.readByte p := rfl
@[simp] theorem State.setI_memWf (s : State) (w : Word) : (s.setI w).memWf = s.memWf := rfl
@[simp] theorem State.setI_keyDown (s : State) (w : Word) (c : Nibble) : (s.setI w).keyDown c = s.keyDown c := rfl

/-! #### setPc -/

@[simp] theorem State.setPc_v (s : State) (w : Word) : (s.setPc w).v = s.v := rfl
@[simp] theorem State.setPc_i (s : State) (w : Word) : (s.setPc w).i = s.i := rfl
@[simp] theorem State.setPc_pc (s : State) (w : Word) : (s.setPc w).pc = w := rfl
@[simp] theorem State.setPc_stack (s : State) (w : Word) : (s.setPc w).stack = s.stack := rfl
@[simp] theorem State.setPc_dt (s : State) (w : Word) : (s.setPc w).dt = s.dt := rfl
@[simp] theorem State.setPc_st (s : State) (w : Word) : (s.setPc w).st = s.st := rfl
@[simp] theorem State.setPc_mem (s : State) (w : Word) : (s.setPc w).mem = s.mem := rfl
@[simp] theorem State.setPc_fb (s : State) (w : Word) : (s.setPc w).fb = s.fb := rfl
@[simp] theorem State.setPc_keys (s : State) (w : Word) : (s.setPc w).keys = s.keys := rfl
@[simp] theorem State.setPc_latch (s : State) (w : Word) : (s.setPc w).latch = s.latch := rfl
@[simp] theorem State.setPc_dwstate (s : State) (w : Word) : (s.setPc w).dwstate = s.dwstate := rfl
@[simp] theorem State.setPc_fault (s : State) (w : Word) : (s.setPc w).fault = s.fault := rfl
@[simp] theorem State.setPc_drawFlag (s : State) (w : Word) : (s.setPc w).drawFlag = s.drawFlag := rfl
@[simp] theorem State.setPc_params (s : State) (w : Word) : (s.setPc w).params = s.params := rfl
@[simp] theorem State.setPc_draws (s : State) (w : Word) : (s.setPc w).draws = s.draws := rfl
@[simp] theorem State.setPc_schedule (s : State) (w : Word) : (s.setPc w).schedule = s.schedule := rfl
@[simp] theorem State.setPc_reg (s : State) (w : Word) (r : Nibble) : (s.setPc w).reg r = s.reg r := rfl
@[simp] theorem State.setPc_readByte (s : State) (w : Word) (p : Nat) : (s.setPc w).readByte p = s.readByte p := rfl
@[simp] theorem State.setPc_memWf (s : State) (w : Word) : (s.setPc w).memWf = s.memWf := rfl
@[simp] theorem State.setPc_keyDown (s : State) (w : Word) (c : Nibble) : (s.setPc w).keyDown c = s.keyDown c := rfl

/-! #### setStack -/

@[simp] theorem State.setStack_v (s : State) (l : List Word) : (s.setStack l).v = s.v := rfl
@[simp] theorem State.setStack_i (s : State) (l : List Word) : (s.setStack l).i = s.i := rfl
@[simp] theorem State.setStack_pc (s : State) (l : List Word) : (s.setStack l).pc = s.pc := rfl
@[simp] theorem State.setStack_stack (s : State) (l : List Word) : (s.setStack l).stack = l := rfl
@[simp] theorem State.setStack_dt (s : State) (l : List Word) : (s.setStack l).dt = s.dt := rfl
@[simp] theorem State.setStack_st (s : State) (l : List Word) : (s.setStack l).st = s.st := rfl
@[simp] theorem State.setStack_mem (s : State) (l : List Word) : (s.setStack l).mem = s.mem := rfl
@[simp] theorem State.setStack_fb (s : State) (l : List Word) : (s.setStack l).fb = s.fb := rfl
@[simp] theorem State.setStack_keys (s : State) (l : List Word) : (s.setStack l).keys = s.keys := rfl
@[simp] theorem State.setStack_latch (s : State) (l : List Word) : (s.setStack l).latch = s.latch := rfl
@[simp] theorem State.setStack_dwstate (s : State) (l : List Word) : (s.setStack l).dwstate = s.dwstate := rfl
@[simp] theorem State.setStack_fault (s : State) (l : List Word) : (s.setStack l).fault = s.fault := rfl
@[simp] theorem State.setStack_drawFlag (s : State) (l : List Word) : (s.setStack l).drawFlag = s.drawFlag := rfl
@[simp] theorem State.setStack_params (s : State) (l : List Word) : (s.setStack l).params = s.params := rfl
@[simp] theorem State.setStack_draws (s : State) (l : List Word) : (s.setStack l).draws = s.draws := rfl
@[simp] theorem State.setStack_schedule (s : State) (l : List Word) : (s.setStack l).schedule = s.schedule := rfl
@[simp] theorem State.setStack_reg (s : State) (l : List Word) (r : Nibble) : (s.setStack l).reg r = s.reg r := rfl
@[simp] theorem State.setStack_readByte (s : State) (l : List Word) (p : Nat) : (s.setStack l).readByte p = s.readByte p := rfl
@[simp] theorem State.setStack_memWf (s : State) (l : List Word) : (s.setStack l).memWf = s.memWf := rfl
@[simp] theorem State.setStack_keyDown (s : State) (l : List Word) (c : Nibble) : (s.setStack l).keyDown c = s.keyDown c := rfl

/-! #### setDt -/

@[simp] theorem State.setDt_v (s : State) (b : Byte) : (s.setDt b).v = s.v := rfl
@[simp] theorem State.setDt_i (s : State) (b : Byte) : (s.setDt b).i = s.i := rfl
@[simp] theorem State.setDt_pc (s : State) (b : Byte) : (s.setDt b).pc = s.pc := rfl
@[simp] theorem State.setDt_stack (s : State) (b : Byte) : (s.setDt b).stack = s.stack := rfl
@[simp] theorem State.setDt_dt (s : State) (b : Byte) : (s.setDt b).dt = b := rfl
@[simp] theorem State.setDt_st (s : State) (b : Byte) : (s.setDt b).st = s.st := rfl
@[simp] theorem State.setDt_mem (s : State) (b : Byte) : (s.setDt b).mem = s.mem := rfl
@[simp] theorem State.setDt_fb (s : State) (b : Byte) : (s.setDt b).fb = s.fb := rfl
@[simp] theorem State.setDt_keys (s : State) (b : Byte) : (s.setDt b).keys = s.keys := rfl
@[simp] theorem State.setDt_latch (s : State) (b : Byte) : (s.setDt b).latch = s.latch := rfl
@[simp] theorem State.setDt_dwstate (s : State) (b : Byte) : (s.setDt b).dwstate = s.dwstate := rfl
@[simp] theorem State.setDt_fault (s : State) (b : Byte) : (s.setDt b).fault = s.fault := rfl
@[simp] theorem State.setDt_drawFlag (s : State) (b : Byte) : (s.setDt b).drawFlag = s.drawFlag := rfl
@[simp] theorem State.setDt_params (s : State) (b : Byte) : (s.setDt b).params = s.params := rfl
@[simp] theorem State.setDt_draws (s : State) (b : Byte) : (s.setDt b).draws = s.draws := rfl
@[simp] theorem State.setDt_schedule (s : State) (b : Byte) : (s.setDt b).schedule = s.schedule := rfl
@[simp] theorem State.setDt_reg (s : State) (b : Byte) (r : Nibble) : (s.setDt b).reg r = s.reg r := rfl
@[simp] theorem State.setDt_readByte (s : State) (b : Byte) (p : Nat) : (s.setDt b).readByte p = s.readByte p := rfl
@[simp] theorem State.setDt_memWf (s : State) (b : Byte) : (s.setDt b).memWf = s.memWf := rfl
@[simp] theorem State.setDt_keyDown (s : State) (b : Byte) (c : Nibble) : (s.setDt b).keyDown c = s.keyDown c := rfl

/-! #### setSt -/

@[simp] theorem State.setSt_v (s : State) (b : Byte) : (s.setSt b).v = s.v := rfl
@[simp] theorem State.setSt_i (s : State) (b : Byte) : (s.setSt b).i = s.i := rfl
@[simp] theorem State.setSt_pc (s : State) (b : Byte) : (s.setSt b).pc = s.pc := rfl
@[simp] theorem State.setSt_stack (s : State) (b : Byte) : (s.setSt b).stack = s.stack := rfl
@[simp] theorem State.setSt_dt (s : State) (b : Byte) : (s.setSt b).dt = s.dt := rfl
@[simp] theorem State.setSt_st (s : State) (b : Byte) : (s.setSt b).st = b := rfl
@[simp] theorem State.setSt_mem (s : State) (b : Byte) : (s.setSt b).mem = s.mem := rfl
@[simp] theorem State.setSt_fb (s : State) (b : Byte) : (s.setSt b).fb = s.fb := rfl
@[simp] theorem State.setSt_keys (s : State) (b : Byte) : (s.setSt b).keys = s.keys := rfl
@[simp] theorem State.setSt_latch (s : State) (b : Byte) : (s.setSt b).latch = s.latch := rfl
@[simp] theorem State.setSt_dwstate (s : State) (b : Byte) : (s.setSt b).dwstate = s.dwstate := rfl
@[simp] theorem State.setSt_fault (s : State) (b : Byte) : (s.setSt b).fault = s.fault := rfl
@[simp] theorem State.setSt_drawFlag (s : State) (b : Byte) : (s.setSt b).drawFlag = s.drawFlag := rfl
@[simp] theorem State.setSt_params (s : State) (b : Byte) : (s.setSt b).params = s.params := rfl
@[simp] theorem State.setSt_draws (s : State) (b : Byte) : (s.setSt b).draws = s.draws := rfl
@[simp] theorem State.setSt_schedule (s : State) (b : Byte) : (s.setSt b).schedule = s.schedule := rfl
@[simp] theorem State.setSt_reg (s : State) (b : Byte) (r : Nibble) : (s.setSt b).reg r = s.reg r := rfl
@[simp] theorem State.setSt_readByte (s : State) (b : Byte) (p : Nat) : (s.setSt b).readByte p = s.readByte p := rfl
@[simp] theorem State.setSt_memWf (s : State) (b : Byte) : (s.setSt b).memWf = s.memWf := rfl
@[simp] theorem State.setSt_keyDown (s : State) (b : Byte) (c : Nibble) : (s.setSt b).keyDown c = s.keyDown c := rfl

/-! #### setFb -/

@[simp] theorem State.setFb_v (s : State) (f : Framebuffer) : (s.setFb f).v = s.v := rfl
@[simp] theorem State.setFb_i (s : State) (f : Framebuffer) : (s.setFb f).i = s.i := rfl
@[simp] theorem State.setFb_pc (s : State) (f : Framebuffer) : (s.setFb f).pc = s.pc := rfl
@[simp] theorem State.setFb_stack (s : State) (f : Framebuffer) : (s.setFb f).stack = s.stack := rfl
@[simp] theorem State.setFb_dt (s : State) (f : Framebuffer) : (s.setFb f).dt = s.dt := rfl
@[simp] theorem State.setFb_st (s : State) (f : Framebuffer) : (s.setFb f).st = s.st := rfl
@[simp] theorem State.setFb_mem (s : State) (f : Framebuffer) : (s.setFb f).mem = s.mem := rfl
@[simp] theorem State.setFb_fb (s : State) (f : Framebuffer) : (s.setFb f).fb = f := rfl
@[simp] theorem State.setFb_keys (s : State) (f : Framebuffer) : (s.setFb f).keys = s.keys := rfl
@[simp] theorem State.setFb_latch (s : State) (f : Framebuffer) : (s.setFb f).latch = s.latch := rfl
@[simp] theorem State.setFb_dwstate (s : State) (f : Framebuffer) : (s.setFb f).dwstate = s.dwstate := rfl
@[simp] theorem State.setFb_fault (s : State) (f : Framebuffer) : (s.setFb f).fault = s.fault := rfl
@[simp] theorem State.setFb_drawFlag (s : State) (f : Framebuffer) : (s.setFb f).drawFlag = s.drawFlag := rfl
@[simp] theorem State.setFb_params (s : State) (f : Framebuffer) : (s.setFb f).params = s.params := rfl
@[simp] theorem State.setFb_draws (s : State) (f : Framebuffer) : (s.setFb f).draws = s.draws := rfl
@[simp] theorem State.setFb_schedule (s : State) (f : Framebuffer) : (s.setFb f).schedule = s.schedule := rfl
@[simp] theorem State.setFb_reg (s : State) (f : Framebuffer) (r : Nibble) : (s.setFb f).reg r = s.reg r := rfl
@[simp] theorem State.setFb_readByte (s : State) (f : Framebuffer) (p : Nat) : (s.setFb f).readByte p = s.readByte p := rfl
@[simp] theorem State.setFb_memWf (s : State) (f : Framebuffer) : (s.setFb f).memWf = s.memWf := rfl
@[simp] theorem State.setFb_keyDown (s : State) (f : Framebuffer) (c : Nibble) : (s.setFb f).keyDown c = s.keyDown c := rfl

/-! #### setKeys -/

@[simp] theorem State.setKeys_v (s : State) (k : Vector Bool 16) : (s.setKeys k).v = s.v := rfl
@[simp] theorem State.setKeys_i (s : State) (k : Vector Bool 16) : (s.setKeys k).i = s.i := rfl
@[simp] theorem State.setKeys_pc (s : State) (k : Vector Bool 16) : (s.setKeys k).pc = s.pc := rfl
@[simp] theorem State.setKeys_stack (s : State) (k : Vector Bool 16) : (s.setKeys k).stack = s.stack := rfl
@[simp] theorem State.setKeys_dt (s : State) (k : Vector Bool 16) : (s.setKeys k).dt = s.dt := rfl
@[simp] theorem State.setKeys_st (s : State) (k : Vector Bool 16) : (s.setKeys k).st = s.st := rfl
@[simp] theorem State.setKeys_mem (s : State) (k : Vector Bool 16) : (s.setKeys k).mem = s.mem := rfl
@[simp] theorem State.setKeys_fb (s : State) (k : Vector Bool 16) : (s.setKeys k).fb = s.fb := rfl
@[simp] theorem State.setKeys_keys (s : State) (k : Vector Bool 16) : (s.setKeys k).keys = k := rfl
@[simp] theorem State.setKeys_latch (s : State) (k : Vector Bool 16) : (s.setKeys k).latch = s.latch := rfl
@[simp] theorem State.setKeys_dwstate (s : State) (k : Vector Bool 16) : (s.setKeys k).dwstate = s.dwstate := rfl
@[simp] theorem State.setKeys_fault (s : State) (k : Vector Bool 16) : (s.setKeys k).fault = s.fault := rfl
@[simp] theorem State.setKeys_drawFlag (s : State) (k : Vector Bool 16) : (s.setKeys k).drawFlag = s.drawFlag := rfl
@[simp] theorem State.setKeys_params (s : State) (k : Vector Bool 16) : (s.setKeys k).params = s.params := rfl
@[simp] theorem State.setKeys_draws (s : State) (k : Vector Bool 16) : (s.setKeys k).draws = s.draws := rfl
@[simp] theorem State.setKeys_schedule (s : State) (k : Vector Bool 16) : (s.setKeys k).schedule = s.schedule := rfl
@[simp] theorem State.setKeys_reg (s : State) (k : Vector Bool 16) (r : Nibble) : (s.setKeys k).reg r = s.reg r := rfl
@[simp] theorem State.setKeys_readByte (s : State) (k : Vector Bool 16) (p : Nat) : (s.setKeys k).readByte p = s.readByte p := rfl
@[simp] theorem State.setKeys_memWf (s : State) (k : Vector Bool 16) : (s.setKeys k).memWf = s.memWf := rfl

/-! #### setLatch -/

@[simp] theorem State.setLatch_v (s : State) (l : Option Nibble) : (s.setLatch l).v = s.v := rfl
@[simp] theorem State.setLatch_i (s : State) (l : Option Nibble) : (s.setLatch l).i = s.i := rfl
@[simp] theorem State.setLatch_pc (s : State) (l : Option Nibble) : (s.setLatch l).pc = s.pc := rfl
@[simp] theorem State.setLatch_stack (s : State) (l : Option Nibble) : (s.setLatch l).stack = s.stack := rfl
@[simp] theorem State.setLatch_dt (s : State) (l : Option Nibble) : (s.setLatch l).dt = s.dt := rfl
@[simp] theorem State.setLatch_st (s : State) (l : Option Nibble) : (s.setLatch l).st = s.st := rfl
@[simp] theorem State.setLatch_mem (s : State) (l : Option Nibble) : (s.setLatch l).mem = s.mem := rfl
@[simp] theorem State.setLatch_fb (s : State) (l : Option Nibble) : (s.setLatch l).fb = s.fb := rfl
@[simp] theorem State.setLatch_keys (s : State) (l : Option Nibble) : (s.setLatch l).keys = s.keys := rfl
@[simp] theorem State.setLatch_latch (s : State) (l : Option Nibble) : (s.setLatch l).latch = l := rfl
@[simp] theorem State.setLatch_dwstate (s : State) (l : Option Nibble) : (s.setLatch l).dwstate = s.dwstate := rfl
@[simp] theorem State.setLatch_fault (s : State) (l : Option Nibble) : (s.setLatch l).fault = s.fault := rfl
@[simp] theorem State.setLatch_drawFlag (s : State) (l : Option Nibble) : (s.setLatch l).drawFlag = s.drawFlag := rfl
@[simp] theorem State.setLatch_params (s : State) (l : Option Nibble) : (s.setLatch l).params = s.params := rfl
@[simp] theorem State.setLatch_draws (s : State) (l : Option Nibble) : (s.setLatch l).draws = s.draws := rfl
@[simp] theorem State.setLatch_schedule (s : State) (l : Option Nibble) : (s.setLatch l).schedule = s.schedule := rfl
@[simp] theorem State.setLatch_reg (s : State) (l : Option Nibble) (r : Nibble) : (s.setLatch l).reg r = s.reg r := rfl
@[simp] theorem State.setLatch_readByte (s : State) (l : Option Nibble) (p : Nat) : (s.setLatch l).readByte p = s.readByte p := rfl
@[simp] theorem State.setLatch_memWf (s : State) (l : Option Nibble) : (s.setLatch l).memWf = s.memWf := rfl
@[simp] theorem State.setLatch_keyDown (s : State) (l : Option Nibble) (c : Nibble) : (s.setLatch l).keyDown c = s.keyDown c := rfl

/-! #### setDw -/

@[simp] theorem State.setDw_v (s : State) (d : DwState) : (s.setDw d).v = s.v := rfl
@[simp] theorem State.setDw_i (s : State) (d : DwState) : (s.setDw d).i = s.i := rfl
@[simp] theorem State.setDw_pc (s : State) (d : DwState) : (s.setDw d).pc = s.pc := rfl
@[simp] theorem State.setDw_stack (s : State) (d : DwState) : (s.setDw d).stack = s.stack := rfl
@[simp] theorem State.setDw_dt (s : State) (d : DwState) : (s.setDw d).dt = s.dt := rfl
@[simp] theorem State.setDw_st (s : State) (d : DwState) : (s.setDw d).st = s.st := rfl
@[simp] theorem State.setDw_mem (s : State) (d : DwState) : (s.setDw d).mem = s.mem := rfl
@[simp] theorem State.setDw_fb (s : State) (d : DwState) : (s.setDw d).fb = s.fb := rfl
@[simp] theorem State.setDw_keys (s : State) (d : DwState) : (s.setDw d).keys = s.keys := rfl
@[simp] theorem State.setDw_latch (s : State) (d : DwState) : (s.setDw d).latch = s.latch := rfl
@[simp] theorem State.setDw_dwstate (s : State) (d : DwState) : (s.setDw d).dwstate = d := rfl
@[simp] theorem State.setDw_fault (s : State) (d : DwState) : (s.setDw d).fault = s.fault := rfl
@[simp] theorem State.setDw_drawFlag (s : State) (d : DwState) : (s.setDw d).drawFlag = s.drawFlag := rfl
@[simp] theorem State.setDw_params (s : State) (d : DwState) : (s.setDw d).params = s.params := rfl
@[simp] theorem State.setDw_draws (s : State) (d : DwState) : (s.setDw d).draws = s.draws := rfl
@[simp] theorem State.setDw_schedule (s : State) (d : DwState) : (s.setDw d).schedule = s.schedule := rfl
@[simp] theorem State.setDw_reg (s : State) (d : DwState) (r : Nibble) : (s.setDw d).reg r = s.reg r := rfl
@[simp] theorem State.setDw_readByte (s : State) (d : DwState) (p : Nat) : (s.setDw d).readByte p = s.readByte p := rfl
@[simp] theorem State.setDw_memWf (s : State) (d : DwState) : (s.setDw d).memWf = s.memWf := rfl
@[simp] theorem State.setDw_keyDown (s : State) (d : DwState) (c : Nibble) : (s.setDw d).keyDown c = s.keyDown c := rfl

/-! #### setFault -/

@[simp] theorem State.setFault_v (s : State) (f : FaultCode) : (s.setFault f).v = s.v := rfl
@[simp] theorem State.setFault_i (s : State) (f : FaultCode) : (s.setFault f).i = s.i := rfl
@[simp] theorem State.setFault_pc (s : State) (f : FaultCode) : (s.setFault f).pc = s.pc := rfl
@[simp] theorem State.setFault_stack (s : State) (f : FaultCode) : (s.setFault f).stack = s.stack := rfl
@[simp] theorem State.setFault_dt (s : State) (f : FaultCode) : (s.setFault f).dt = s.dt := rfl
@[simp] theorem State.setFault_st (s : State) (f : FaultCode) : (s.setFault f).st = s.st := rfl
@[simp] theorem State.setFault_mem (s : State) (f : FaultCode) : (s.setFault f).mem = s.mem := rfl
@[simp] theorem State.setFault_fb (s : State) (f : FaultCode) : (s.setFault f).fb = s.fb := rfl
@[simp] theorem State.setFault_keys (s : State) (f : FaultCode) : (s.setFault f).keys = s.keys := rfl
@[simp] theorem State.setFault_latch (s : State) (f : FaultCode) : (s.setFault f).latch = s.latch := rfl
@[simp] theorem State.setFault_dwstate (s : State) (f : FaultCode) : (s.setFault f).dwstate = s.dwstate := rfl
@[simp] theorem State.setFault_fault (s : State) (f : FaultCode) : (s.setFault f).fault = f := rfl
@[simp] theorem State.setFault_drawFlag (s : State) (f : FaultCode) : (s.setFault f).drawFlag = s.drawFlag := rfl
@[simp] theorem State.setFault_params (s : State) (f : FaultCode) : (s.setFault f).params = s.params := rfl
@[simp] theorem State.setFault_draws (s : State) (f : FaultCode) : (s.setFault f).draws = s.draws := rfl
@[simp] theorem State.setFault_schedule (s : State) (f : FaultCode) : (s.setFault f).schedule = s.schedule := rfl
@[simp] theorem State.setFault_reg (s : State) (f : FaultCode) (r : Nibble) : (s.setFault f).reg r = s.reg r := rfl
@[simp] theorem State.setFault_readByte (s : State) (f : FaultCode) (p : Nat) : (s.setFault f).readByte p = s.readByte p := rfl
@[simp] theorem State.setFault_memWf (s : State) (f : FaultCode) : (s.setFault f).memWf = s.memWf := rfl
@[simp] theorem State.setFault_keyDown (s : State) (f : FaultCode) (c : Nibble) : (s.setFault f).keyDown c = s.keyDown c := rfl

/-! #### setDrawFlag -/

@[simp] theorem State.setDrawFlag_v (s : State) (b : Bool) : (s.setDrawFlag b).v = s.v := rfl
@[simp] theorem State.setDrawFlag_i (s : State) (b : Bool) : (s.setDrawFlag b).i = s.i := rfl
@[simp] theorem State.setDrawFlag_pc (s : State) (b : Bool) : (s.setDrawFlag b).pc = s.pc := rfl
@[simp] theorem State.setDrawFlag_stack (s : State) (b : Bool) : (s.setDrawFlag b).stack = s.stack := rfl
@[simp] theorem State.setDrawFlag_dt (s : State) (b : Bool) : (s.setDrawFlag b).dt = s.dt := rfl
@[simp] theorem State.setDrawFlag_st (s : State) (b : Bool) : (s.setDrawFlag b).st = s.st := rfl
@[simp] theorem State.setDrawFlag_mem (s : State) (b : Bool) : (s.setDrawFlag b).mem = s.mem := rfl
@[simp] theorem State.setDrawFlag_fb (s : State) (b : Bool) : (s.setDrawFlag b).fb = s.fb := rfl
@[simp] theorem State.setDrawFlag_keys (s : State) (b : Bool) : (s.setDrawFlag b).keys = s.keys := rfl
@[simp] theorem State.setDrawFlag_latch (s : State) (b : Bool) : (s.setDrawFlag b).latch = s.latch := rfl
@[simp] theorem State.setDrawFlag_dwstate (s : State) (b : Bool) : (s.setDrawFlag b).dwstate = s.dwstate := rfl
@[simp] theorem State.setDrawFlag_fault (s : State) (b : Bool) : (s.setDrawFlag b).fault = s.fault := rfl
@[simp] theorem State.setDrawFlag_drawFlag (s : State) (b : Bool) : (s.setDrawFlag b).drawFlag = b := rfl
@[simp] theorem State.setDrawFlag_params (s : State) (b : Bool) : (s.setDrawFlag b).params = s.params := rfl
@[simp] theorem State.setDrawFlag_draws (s : State) (b : Bool) : (s.setDrawFlag b).draws = s.draws := rfl
@[simp] theorem State.setDrawFlag_schedule (s : State) (b : Bool) : (s.setDrawFlag b).schedule = s.schedule := rfl
@[simp] theorem State.setDrawFlag_reg (s : State) (b : Bool) (r : Nibble) : (s.setDrawFlag b).reg r = s.reg r := rfl
@[simp] theorem State.setDrawFlag_readByte (s : State) (b : Bool) (p : Nat) : (s.setDrawFlag b).readByte p = s.readByte p := rfl
@[simp] theorem State.setDrawFlag_memWf (s : State) (b : Bool) : (s.setDrawFlag b).memWf = s.memWf := rfl
@[simp] theorem State.setDrawFlag_keyDown (s : State) (b : Bool) (c : Nibble) : (s.setDrawFlag b).keyDown c = s.keyDown c := rfl

/-! #### setDraws -/

@[simp] theorem State.setDraws_v (s : State) (n : Nat) : (s.setDraws n).v = s.v := rfl
@[simp] theorem State.setDraws_i (s : State) (n : Nat) : (s.setDraws n).i = s.i := rfl
@[simp] theorem State.setDraws_pc (s : State) (n : Nat) : (s.setDraws n).pc = s.pc := rfl
@[simp] theorem State.setDraws_stack (s : State) (n : Nat) : (s.setDraws n).stack = s.stack := rfl
@[simp] theorem State.setDraws_dt (s : State) (n : Nat) : (s.setDraws n).dt = s.dt := rfl
@[simp] theorem State.setDraws_st (s : State) (n : Nat) : (s.setDraws n).st = s.st := rfl
@[simp] theorem State.setDraws_mem (s : State) (n : Nat) : (s.setDraws n).mem = s.mem := rfl
@[simp] theorem State.setDraws_fb (s : State) (n : Nat) : (s.setDraws n).fb = s.fb := rfl
@[simp] theorem State.setDraws_keys (s : State) (n : Nat) : (s.setDraws n).keys = s.keys := rfl
@[simp] theorem State.setDraws_latch (s : State) (n : Nat) : (s.setDraws n).latch = s.latch := rfl
@[simp] theorem State.setDraws_dwstate (s : State) (n : Nat) : (s.setDraws n).dwstate = s.dwstate := rfl
@[simp] theorem State.setDraws_fault (s : State) (n : Nat) : (s.setDraws n).fault = s.fault := rfl
@[simp] theorem State.setDraws_drawFlag (s : State) (n : Nat) : (s.setDraws n).drawFlag = s.drawFlag := rfl
@[simp] theorem State.setDraws_params (s : State) (n : Nat) : (s.setDraws n).params = s.params := rfl
@[simp] theorem State.setDraws_draws (s : State) (n : Nat) : (s.setDraws n).draws = n := rfl
@[simp] theorem State.setDraws_schedule (s : State) (n : Nat) : (s.setDraws n).schedule = s.schedule := rfl
@[simp] theorem State.setDraws_reg (s : State) (n : Nat) (r : Nibble) : (s.setDraws n).reg r = s.reg r := rfl
@[simp] theorem State.setDraws_readByte (s : State) (n : Nat) (p : Nat) : (s.setDraws n).readByte p = s.readByte p := rfl
@[simp] theorem State.setDraws_memWf (s : State) (n : Nat) : (s.setDraws n).memWf = s.memWf := rfl
@[simp] theorem State.setDraws_keyDown (s : State) (n : Nat) (c : Nibble) : (s.setDraws n).keyDown c = s.keyDown c := rfl

/-! #### setSchedule -/

@[simp] theorem State.setSchedule_v (s : State) (l : List Transaction) : (s.setSchedule l).v = s.v := rfl
@[simp] theorem State.setSchedule_i (s : State) (l : List Transaction) : (s.setSchedule l).i = s.i := rfl
@[simp] theorem State.setSchedule_pc (s : State) (l : List Transaction) : (s.setSchedule l).pc = s.pc := rfl
@[simp] theorem State.setSchedule_stack (s : State) (l : List Transaction) : (s.setSchedule l).stack = s.stack := rfl
@[simp] theorem State.setSchedule_dt (s : State) (l : List Transaction) : (s.setSchedule l).dt = s.dt := rfl
@[simp] theorem State.setSchedule_st (s : State) (l : List Transaction) : (s.setSchedule l).st = s.st := rfl
@[simp] theorem State.setSchedule_mem (s : State) (l : List Transaction) : (s.setSchedule l).mem = s.mem := rfl
@[simp] theorem State.setSchedule_fb (s : State) (l : List Transaction) : (s.setSchedule l).fb = s.fb := rfl
@[simp] theorem State.setSchedule_keys (s : State) (l : List Transaction) : (s.setSchedule l).keys = s.keys := rfl
@[simp] theorem State.setSchedule_latch (s : State) (l : List Transaction) : (s.setSchedule l).latch = s.latch := rfl
@[simp] theorem State.setSchedule_dwstate (s : State) (l : List Transaction) : (s.setSchedule l).dwstate = s.dwstate := rfl
@[simp] theorem State.setSchedule_fault (s : State) (l : List Transaction) : (s.setSchedule l).fault = s.fault := rfl
@[simp] theorem State.setSchedule_drawFlag (s : State) (l : List Transaction) : (s.setSchedule l).drawFlag = s.drawFlag := rfl
@[simp] theorem State.setSchedule_params (s : State) (l : List Transaction) : (s.setSchedule l).params = s.params := rfl
@[simp] theorem State.setSchedule_draws (s : State) (l : List Transaction) : (s.setSchedule l).draws = s.draws := rfl
@[simp] theorem State.setSchedule_schedule (s : State) (l : List Transaction) : (s.setSchedule l).schedule = l := rfl
@[simp] theorem State.setSchedule_reg (s : State) (l : List Transaction) (r : Nibble) : (s.setSchedule l).reg r = s.reg r := rfl
@[simp] theorem State.setSchedule_readByte (s : State) (l : List Transaction) (p : Nat) : (s.setSchedule l).readByte p = s.readByte p := rfl
@[simp] theorem State.setSchedule_memWf (s : State) (l : List Transaction) : (s.setSchedule l).memWf = s.memWf := rfl
@[simp] theorem State.setSchedule_keyDown (s : State) (l : List Transaction) (c : Nibble) : (s.setSchedule l).keyDown c = s.keyDown c := rfl

/-! #### setReg -/

@[simp] theorem State.setReg_i (s : State) (x : Nibble) (b : Byte) : (s.setReg x b).i = s.i := rfl
@[simp] theorem State.setReg_pc (s : State) (x : Nibble) (b : Byte) : (s.setReg x b).pc = s.pc := rfl
@[simp] theorem State.setReg_stack (s : State) (x : Nibble) (b : Byte) : (s.setReg x b).stack = s.stack := rfl
@[simp] theorem State.setReg_dt (s : State) (x : Nibble) (b : Byte) : (s.setReg x b).dt = s.dt := rfl
@[simp] theorem State.setReg_st (s : State) (x : Nibble) (b : Byte) : (s.setReg x b).st = s.st := rfl
@[simp] theorem State.setReg_mem (s : State) (x : Nibble) (b : Byte) : (s.setReg x b).mem = s.mem := rfl
@[simp] theorem State.setReg_fb (s : State) (x : Nibble) (b : Byte) : (s.setReg x b).fb = s.fb := rfl
@[simp] theorem State.setReg_keys (s : State) (x : Nibble) (b : Byte) : (s.setReg x b).keys = s.keys := rfl
@[simp] theorem State.setReg_latch (s : State) (x : Nibble) (b : Byte) : (s.setReg x b).latch = s.latch := rfl
@[simp] theorem State.setReg_dwstate (s : State) (x : Nibble) (b : Byte) : (s.setReg x b).dwstate = s.dwstate := rfl
@[simp] theorem State.setReg_fault (s : State) (x : Nibble) (b : Byte) : (s.setReg x b).fault = s.fault := rfl
@[simp] theorem State.setReg_drawFlag (s : State) (x : Nibble) (b : Byte) : (s.setReg x b).drawFlag = s.drawFlag := rfl
@[simp] theorem State.setReg_params (s : State) (x : Nibble) (b : Byte) : (s.setReg x b).params = s.params := rfl
@[simp] theorem State.setReg_draws (s : State) (x : Nibble) (b : Byte) : (s.setReg x b).draws = s.draws := rfl
@[simp] theorem State.setReg_schedule (s : State) (x : Nibble) (b : Byte) : (s.setReg x b).schedule = s.schedule := rfl
@[simp] theorem State.setReg_readByte (s : State) (x : Nibble) (b : Byte) (p : Nat) :
    (s.setReg x b).readByte p = s.readByte p := rfl
@[simp] theorem State.setReg_keyDown (s : State) (x : Nibble) (b : Byte) (c : Nibble) :
    (s.setReg x b).keyDown c = s.keyDown c := rfl

/-- A register reads back the last value written to it, and a write leaves every other register alone (10_state.md R20). -/
theorem State.setReg_reg (s : State) (x : Nibble) (b : Byte) (r : Nibble) :
    (s.setReg x b).reg r = if r = x then b else s.reg r := by
  simp only [State.reg, State.setReg, Vector.getElem_set]
  by_cases h : r = x
  · simp [h]
  · have : x.toNat ≠ r.toNat := fun e => h (BitVec.eq_of_toNat_eq e.symm)
    simp [h, this]

@[simp] theorem State.setReg_memWf (s : State) (x : Nibble) (b : Byte) : (s.setReg x b).memWf = s.memWf := rfl

@[simp] theorem State.setReg_reg_same (s : State) (x : Nibble) (b : Byte) : (s.setReg x b).reg x = b := by
  simp [State.setReg_reg]

theorem State.setReg_reg_ne (s : State) {x r : Nibble} (b : Byte) (h : r ≠ x) : (s.setReg x b).reg r = s.reg r := by
  simp [State.setReg_reg, h]

/-! #### writeByte -/

@[simp] theorem State.writeByte_v (s : State) (a : Nat) (b : Byte) : (s.writeByte a b).v = s.v := rfl
@[simp] theorem State.writeByte_i (s : State) (a : Nat) (b : Byte) : (s.writeByte a b).i = s.i := rfl
@[simp] theorem State.writeByte_pc (s : State) (a : Nat) (b : Byte) : (s.writeByte a b).pc = s.pc := rfl
@[simp] theorem State.writeByte_stack (s : State) (a : Nat) (b : Byte) : (s.writeByte a b).stack = s.stack := rfl
@[simp] theorem State.writeByte_dt (s : State) (a : Nat) (b : Byte) : (s.writeByte a b).dt = s.dt := rfl
@[simp] theorem State.writeByte_st (s : State) (a : Nat) (b : Byte) : (s.writeByte a b).st = s.st := rfl
@[simp] theorem State.writeByte_fb (s : State) (a : Nat) (b : Byte) : (s.writeByte a b).fb = s.fb := rfl
@[simp] theorem State.writeByte_keys (s : State) (a : Nat) (b : Byte) : (s.writeByte a b).keys = s.keys := rfl
@[simp] theorem State.writeByte_latch (s : State) (a : Nat) (b : Byte) : (s.writeByte a b).latch = s.latch := rfl
@[simp] theorem State.writeByte_dwstate (s : State) (a : Nat) (b : Byte) : (s.writeByte a b).dwstate = s.dwstate := rfl
@[simp] theorem State.writeByte_fault (s : State) (a : Nat) (b : Byte) : (s.writeByte a b).fault = s.fault := rfl
@[simp] theorem State.writeByte_drawFlag (s : State) (a : Nat) (b : Byte) : (s.writeByte a b).drawFlag = s.drawFlag := rfl
@[simp] theorem State.writeByte_params (s : State) (a : Nat) (b : Byte) : (s.writeByte a b).params = s.params := rfl
@[simp] theorem State.writeByte_draws (s : State) (a : Nat) (b : Byte) : (s.writeByte a b).draws = s.draws := rfl
@[simp] theorem State.writeByte_schedule (s : State) (a : Nat) (b : Byte) : (s.writeByte a b).schedule = s.schedule := rfl
@[simp] theorem State.writeByte_mem (s : State) (a : Nat) (b : Byte) :
    (s.writeByte a b).mem = Memory.put s.params.font s.mem (a % Config.memSize) b := rfl
@[simp] theorem State.writeByte_reg (s : State) (a : Nat) (b : Byte) (r : Nibble) : (s.writeByte a b).reg r = s.reg r := rfl
@[simp] theorem State.writeByte_keyDown (s : State) (a : Nat) (b : Byte) (c : Nibble) :
    (s.writeByte a b).keyDown c = s.keyDown c := rfl

end Sys2Proof.Machine
end

