-- ==== Sys2Proof/Laws/Ops.lean ====
section
/-! SUPPORT. What each shared operation can do, said once: a caller cites the lemma and never unfolds the operation. -/

namespace Sys2Proof.Machine

open Sys2Proof.Config

/-! ### Control -/

/-- A skip only sets PC (40_flow.md R109). -/
theorem State.skipIf_eq (s : State) (c : Bool) : s.skipIf c = s.setPc (if c then s.pc + 2 else s.pc) := by
  cases c <;> rfl

theorem State.rewind_eq (s : State) : s.rewind = s.setPc (s.pc - 2) := rfl

theorem State.raiseFault_eq (s : State) (r : FaultCode) : s.raiseFault r = s.setFault r := rfl

/-- The fetch's advance undone by a rewind leaves PC where it was (00_scope.md R17). -/
theorem rewind_of_fetched (pc : Word) : pc + 2 - 2 = pc := by simp

/-! ### Stack -/

theorem State.stackFull_iff (s : State) : s.stackFull = true ↔ s.params.stackDepth = some s.stack.length := by
  unfold State.stackFull
  cases s.params.stackDepth with
  | none => simp
  | some n => simp [eq_comm]

/-! ### Flags -/

theorem State.setRegAndFlag_eq (s : State) (x : Nibble) (r f : Byte) :
    s.setRegAndFlag x r f = (s.setReg x r).setReg vf f := rfl

/-- VF is the flag; any other register is the result if it is V[x], and unchanged if not (41_alu.md R134). -/
theorem State.setRegAndFlag_reg (s : State) (x : Nibble) (r f : Byte) (q : Nibble) :
    (s.setRegAndFlag x r f).reg q = if q = vf then f else if q = x then r else s.reg q := by
  simp [State.setRegAndFlag, State.setReg_reg]

/-- `LogicFlag(x)` in its three cases (41_alu.md R126). -/
theorem State.logicFlag_cases (s : State) (x : Nibble) :
    (s.params.quirks.vfreset = true ∧ s.logicFlag x = s.setReg vf 0) ∨
    (s.params.quirks.vfreset = false ∧ x = vf ∧ s.logicFlag x = s) ∨
    (s.params.quirks.vfreset = false ∧ x ≠ vf ∧
      s.logicFlag x = (s.setDraws (s.draws + 1)).setReg vf (freeByte s.draws)) := by
  unfold State.logicFlag
  cases h : s.params.quirks.vfreset
  · by_cases hx : x = vf
    · simp [hx]
    · simp [hx, State.drawByte]
  · simp

/-! ### Keys -/

/-- KeyPressed in its two cases (43_keyboard.md R170). -/
theorem State.keyPressed_cases (s : State) (b : Byte) :
    (b.toNat < 16 ∧ s.keyPressed b = (s.keyDown (b.setWidth 4), s)) ∨
    (16 ≤ b.toNat ∧ s.keyPressed b = (freeBool s.draws, s.setDraws (s.draws + 1))) := by
  unfold State.keyPressed
  by_cases h : b ≤ 0x0F#8
  · left
    have : b.toNat ≤ 15 := by simpa [BitVec.le_def] using h
    exact ⟨by omega, by simp [h]⟩
  · right
    have : ¬ b.toNat ≤ 15 := by simpa [BitVec.le_def] using h
    exact ⟨by omega, by simp [h, State.drawBool]⟩

theorem mem_keyCodes (k : Nibble) : k ∈ keyCodes := by
  revert k; decide

/-- No lowest key: no key is pressed. -/
theorem State.lowestKey_none (s : State) : s.lowestKey = none ↔ ∀ k, s.keyDown k = false := by
  simp only [State.lowestKey, List.find?_eq_none, Bool.not_eq_true]
  exact ⟨fun h k => h k (mem_keyCodes k), fun h k _ => h k⟩

/-- The search of a rising list finds the smallest element it holds that passes. -/
theorem find_lowest {p : Nibble → Bool} {k : Nibble} : ∀ {l : List Nibble}, l.Pairwise (· < ·) → l.find? p = some k →
    p k = true ∧ ∀ j ∈ l, j < k → p j = false
  | [], _, h => by simp at h
  | a :: rest, hl, h => by
    rw [List.pairwise_cons] at hl
    by_cases ha : p a = true
    · rw [List.find?_cons_of_pos ha] at h
      cases h
      refine ⟨ha, fun j hj hjk => ?_⟩
      rcases List.mem_cons.1 hj with rfl | hj
      · exact absurd hjk (by simp)
      · exact absurd (BitVec.lt_trans hjk (hl.1 j hj)) (by simp)
    · rw [List.find?_cons_of_neg ha] at h
      obtain ⟨h1, h2⟩ := find_lowest hl.2 h
      refine ⟨h1, fun j hj hjk => ?_⟩
      rcases List.mem_cons.1 hj with rfl | hj
      · simpa using ha
      · exact h2 j hj hjk

theorem keyCodes_rising : keyCodes.Pairwise (· < ·) := by decide

/-- The lowest key is pressed, and no smaller key is (43_keyboard.md R175). -/
theorem State.lowestKey_some {s : State} {k : Nibble} (h : s.lowestKey = some k) :
    s.keyDown k = true ∧ ∀ j, j < k → s.keyDown j = false :=
  ⟨(find_lowest keyCodes_rising h).1, fun j hj => (find_lowest keyCodes_rising h).2 j (mem_keyCodes j) hj⟩

/-- A pressed key with no smaller key pressed is the lowest key. -/
theorem State.lowestKey_eq {s : State} {k : Nibble} (hk : s.keyDown k = true) (hl : ∀ j, j < k → s.keyDown j = false) :
    s.lowestKey = some k := by
  cases h : s.lowestKey with
  | none => exact absurd ((State.lowestKey_none s).1 h k) (by simp [hk])
  | some c =>
    obtain ⟨hc, hcl⟩ := State.lowestKey_some h
    have h1 : ¬ c < k := fun e => by simp [hl c e] at hc
    have h2 : ¬ k < c := fun e => by simp [hcl k e] at hk
    rw [BitVec.not_lt] at h1 h2
    exact congrArg some (BitVec.le_antisymm h2 h1)

/-! ### Framebuffer -/

theorem Framebuffer.pixel_setPixel (fb : Framebuffer) (r : Fin displayH) (c : Fin displayW) (b : Bool)
    (r' : Fin displayH) (c' : Fin displayW) :
    Framebuffer.pixel (Framebuffer.setPixel fb r c b) r' c' = if r' = r ∧ c' = c then b else Framebuffer.pixel fb r' c' := by
  simp only [Framebuffer.pixel, Framebuffer.setPixel, Vector.getElem_set]
  by_cases hr : r' = r
  · subst hr
    by_cases hc : c' = c
    · simp [hc]
    · have : ¬ c.val = c'.val := fun e => hc (Fin.ext e.symm)
      simp [hc, this]
  · have : ¬ r.val = r'.val := fun e => hr (Fin.ext e.symm)
    simp [hr, this]

@[simp] theorem Framebuffer.pixel_blank (r : Fin displayH) (c : Fin displayW) :
    Framebuffer.pixel Framebuffer.blank r c = false := by
  simp [Framebuffer.pixel, Framebuffer.blank]

/-- Two framebuffers with the same pixels are the same. -/
theorem Framebuffer.ext_pixel {f g : Framebuffer} (h : ∀ r c, Framebuffer.pixel f r c = Framebuffer.pixel g r c) : f = g := by
  apply Vector.ext
  intro r hr
  apply Vector.ext
  intro c hc
  exact h ⟨r, hr⟩ ⟨c, hc⟩

/-! ### Memory transfer -/

theorem regIndex_toNat {k : Nat} (h : k < 16) : (regIndex k).toNat = k := by
  simp [regIndex, Nat.mod_eq_of_lt h]

/-- Storing registers changes memory only. -/
theorem State.storeRegs_eq (s : State) (k : Nat) : s.storeRegs k = { s with mem := (s.storeRegs k).mem } := by
  induction k with
  | zero => rfl
  | succ k ih => rw [State.storeRegs, State.writeByte, ih]

/-- A byte that no stored address reaches keeps its value. -/
theorem State.storeRegs_readByte_ne (s : State) (k p : Nat)
    (h : ∀ j < k, p % memSize ≠ (s.i.toNat + j) % memSize) : (s.storeRegs k).readByte p = s.readByte p := by
  induction k with
  | zero => rfl
  | succ k ih =>
    rw [State.storeRegs, State.writeByte_readByte, if_neg (h k (Nat.lt_succ_self k))]
    exact ih fun j hj => h j (Nat.lt_succ_of_lt hj)

/-- The byte at I + j holds V[j] after at most sixteen registers are stored (44_index_timer_memory.md R187). -/
theorem State.storeRegs_readByte (s : State) {k j : Nat} (hk : k ≤ 16) (hj : j < k) :
    (s.storeRegs k).readByte (s.i.toNat + j) = s.reg (regIndex j) := by
  induction k with
  | zero => omega
  | succ k ih =>
    rw [State.storeRegs, State.writeByte_readByte]
    by_cases h : j = k
    · simp [h]
    · rw [if_neg (by simp only [memSize]; omega)]
      exact ih (by omega) (by omega)

/-- Storing registers keeps the canonical form of memory. -/
theorem State.storeRegs_wf {s : State} (h : s.memWf = true) (k : Nat) : (s.storeRegs k).memWf = true := by
  induction k with
  | zero => exact h
  | succ k ih => exact State.writeByte_wf ih _ _

/-- Loading registers changes the registers only. -/
theorem State.loadRegs_eq (s : State) (k : Nat) : s.loadRegs k = { s with v := (s.loadRegs k).v } := by
  induction k with
  | zero => rfl
  | succ k ih => rw [State.loadRegs, State.setReg, ih]

/-- V[r] holds the byte at I + r for r below the count, and its old value otherwise (44_index_timer_memory.md R188). -/
theorem State.loadRegs_reg (s : State) {k : Nat} (hk : k ≤ 16) (r : Nibble) :
    (s.loadRegs k).reg r = if r.toNat < k then s.readByte (s.i.toNat + r.toNat) else s.reg r := by
  induction k with
  | zero => simp [State.loadRegs]
  | succ k ih =>
    rw [State.loadRegs, State.setReg_reg, ih (by omega)]
    have hr : r = regIndex k ↔ r.toNat = k :=
      ⟨fun e => by rw [e, regIndex_toNat (by omega)], fun e => BitVec.eq_of_toNat_eq (by rw [regIndex_toNat (by omega), e])⟩
    by_cases h : r.toNat = k
    · simp [hr.2 h, regIndex_toNat (show k < 16 by omega)]
    · have h' : ¬ r = regIndex k := fun e => h (hr.1 e)
      by_cases h2 : r.toNat < k
      · simp [h', h2, Nat.lt_succ_of_lt h2]
      · have h3 : ¬ r.toNat < k + 1 := by omega
        simp [h', h2, h3]

/-- I advances by x + 1 with `meminc`, and nothing else changes. -/
theorem State.advanceI_eq (s : State) (x : Nibble) :
    s.advanceI x = s.setI (if s.params.quirks.meminc then s.i + BitVec.ofNat 16 (x.toNat + 1) else s.i) := by
  unfold State.advanceI
  cases s.params.quirks.meminc <;> rfl

end Sys2Proof.Machine
end

