-- ==== Sys2Proof/Laws/Blit.lean ====
section
/-! SUPPORT. What the loops of the sprite engine do, pixel by pixel (42_display.md R152 to R160). -/

namespace Sys2Proof.Machine

open Sys2Proof.Config

/-- How far a number lies past an origin on a ring of `size` places. -/
def ringOffset (size origin place : Nat) : Nat := (place + size - origin) % size

theorem ringOffset_lt {size origin place : Nat} (h : 0 < size) : ringOffset size origin place < size :=
  Nat.mod_lt _ h

/-- The place that is `k` past the origin is the one whose offset is `k`. -/
theorem ring_place_iff {size origin k place : Nat} (ho : origin < size) (hk : k < size) (hp : place < size) :
    place = (origin + k) % size ↔ ringOffset size origin place = k := by
  have hs : 0 < size := by omega
  unfold ringOffset
  have e1 : (origin + k) % size = if origin + k < size then origin + k else origin + k - size := by
    split
    · exact Nat.mod_eq_of_lt ‹_›
    · rw [Nat.mod_eq_sub_mod (by omega), Nat.mod_eq_of_lt (by omega)]
  have e2 : (place + size - origin) % size = if place < origin then place + size - origin else place - origin := by
    split
    · exact Nat.mod_eq_of_lt (by omega)
    · rw [Nat.mod_eq_sub_mod (by omega), Nat.mod_eq_of_lt (by omega)]
      omega
  rw [e1, e2]
  split <;> split <;> omega

/-- Whether the columns `col` to `col + k - 1` of a row byte put a 1-bit on a screen column. -/
def rowBit (clip : Bool) (ox : Nat) (b : Byte) (col k : Nat) (c : Fin displayW) : Bool :=
  let dc := ringOffset displayW ox c.val
  decide (col ≤ dc) && decide (dc < col + k) && (!clip || decide (ox + dc < displayW)) && spriteBit b dc

theorem plot_pixel (r : Fin displayH) (c : Fin displayW) (bit : Bool) (acc : Framebuffer × Bool)
    (r' : Fin displayH) (c' : Fin displayW) :
    Framebuffer.pixel (plot r c bit acc).1 r' c' =
      (Framebuffer.pixel acc.1 r' c' ^^ (decide (r' = r) && decide (c' = c) && bit)) := by
  by_cases hr : r' = r <;> by_cases hc : c' = c <;> simp [plot, Framebuffer.pixel_setPixel, hr, hc]

theorem plot_hit (r : Fin displayH) (c : Fin displayW) (bit : Bool) (acc : Framebuffer × Bool) :
    (plot r c bit acc).2 = true ↔ acc.2 = true ∨ (bit = true ∧ Framebuffer.pixel acc.1 r c = true) := by
  simp [plot]

theorem screenCol_eq_iff {ox col : Nat} (ho : ox < displayW) (hc : col < displayW) (c : Fin displayW) :
    c = screenCol (ox + col) ↔ ringOffset displayW ox c.val = col := by
  rw [← ring_place_iff ho hc c.isLt]
  exact ⟨fun e => by rw [e]; rfl, fun e => Fin.ext (by rw [e]; rfl)⟩

theorem screenRow_eq_iff {oy row : Nat} (ho : oy < displayH) (hr : row < displayH) (r : Fin displayH) :
    r = screenRow (oy + row) ↔ ringOffset displayH oy r.val = row := by
  rw [← ring_place_iff ho hr r.isLt]
  exact ⟨fun e => by rw [e]; rfl, fun e => Fin.ext (by rw [e]; rfl)⟩

/-- A row split into its first column and the rest. -/
theorem rowBit_succ {clip : Bool} {ox : Nat} (b : Byte) {col k : Nat} (ho : ox < displayW) (hk : col + (k + 1) ≤ 8)
    (hc : (clip && decide (displayW ≤ ox + col)) = false) (c : Fin displayW) :
    rowBit clip ox b col (k + 1) c =
      ((decide (c = screenCol (ox + col)) && spriteBit b col) ^^ rowBit clip ox b (col + 1) k c) := by
  have hcol : col < displayW := by simp only [displayW]; omega
  have key := screenCol_eq_iff ho hcol c
  unfold rowBit
  by_cases h : ringOffset displayW ox c.val = col
  · have h1 : c = screenCol (ox + col) := key.2 h
    have h2 : (!clip || decide (ox + col < displayW)) = true := by
      cases clip <;> simp_all
    simp only [h, h2, decide_eq_true h1]
    simp
  · have h1 : ¬ c = screenCol (ox + col) := fun e => h (key.1 e)
    simp only [decide_eq_false h1]
    have : decide (col ≤ ringOffset displayW ox c.val) = decide (col + 1 ≤ ringOffset displayW ox c.val) :=
      decide_eq_decide.2 (by omega)
    have h3 : decide (ringOffset displayW ox c.val < col + (k + 1)) = decide (ringOffset displayW ox c.val < col + 1 + k) :=
      decide_eq_decide.2 (by omega)
    simp [this, h3]

/-- A column past the right edge ends the row: nothing is left to draw. -/
theorem rowBit_clipped {clip : Bool} {ox : Nat} (b : Byte) {col k : Nat}
    (hc : (clip && decide (displayW ≤ ox + col)) = true) (c : Fin displayW) : rowBit clip ox b col k c = false := by
  simp only [Bool.and_eq_true, decide_eq_true_eq] at hc
  unfold rowBit
  by_cases h : col ≤ ringOffset displayW ox c.val
  · have : ¬ ox + ringOffset displayW ox c.val < displayW := by omega
    simp [hc.1, this]
  · simp [h]

/-- One row: its pixels are XORed with the row's bits, and a collision is a bit on a lit pixel. -/
theorem blitCols_spec (clip : Bool) (r : Fin displayH) {ox : Nat} (ho : ox < displayW) (b : Byte) (k : Nat) :
    ∀ (col : Nat) (acc : Framebuffer × Bool), col + k ≤ 8 →
      (∀ r' c, Framebuffer.pixel (blitCols clip r ox b k col acc).1 r' c =
        (Framebuffer.pixel acc.1 r' c ^^ (decide (r' = r) && rowBit clip ox b col k c))) ∧
      ((blitCols clip r ox b k col acc).2 = true ↔
        acc.2 = true ∨ ∃ c, rowBit clip ox b col k c = true ∧ Framebuffer.pixel acc.1 r c = true) := by
  induction k with
  | zero =>
    intro col acc _
    have hz : ∀ c, rowBit clip ox b col 0 c = false := fun c => by
      unfold rowBit
      by_cases h : col ≤ ringOffset displayW ox c.val
      · simp [Nat.not_lt.2 h]
      · simp [h]
    simp [blitCols, hz]
  | succ k ih =>
    intro col acc hk
    cases hc : (clip && decide (displayW ≤ ox + col))
    · obtain ⟨ih1, ih2⟩ := ih (col + 1) (plot r (screenCol (ox + col)) (spriteBit b col) acc) (by omega)
      have hs := rowBit_succ b ho hk hc
      have hcol : col < displayW := by simp only [displayW]; omega
      rw [show blitCols clip r ox b (k + 1) col acc =
        blitCols clip r ox b k (col + 1) (plot r (screenCol (ox + col)) (spriteBit b col) acc) by simp [blitCols, hc]]
      refine ⟨fun r' c => ?_, ?_⟩
      · rw [ih1, plot_pixel, hs c]
        by_cases hr : r' = r <;> simp [hr]
      · rw [ih2, plot_hit]
        have hoff : ∀ c, rowBit clip ox b (col + 1) k c = true → c ≠ screenCol (ox + col) := fun c h e => by
          have := (screenCol_eq_iff ho hcol c).1 e
          unfold rowBit at h
          simp [this] at h
        constructor
        · rintro ((h | ⟨h1, h2⟩) | ⟨c, h1, h2⟩)
          · exact .inl h
          · refine .inr ⟨screenCol (ox + col), ?_, h2⟩
            have : rowBit clip ox b (col + 1) k (screenCol (ox + col)) = false := by
              cases e : rowBit clip ox b (col + 1) k (screenCol (ox + col))
              · rfl
              · exact absurd rfl (hoff _ e)
            rw [hs, this]
            simp [h1]
          · refine .inr ⟨c, ?_, ?_⟩
            · rw [hs, h1]
              simp [hoff c h1]
            · simpa [plot_pixel, hoff c h1] using h2
        · rintro (h | ⟨c, h1, h2⟩)
          · exact .inl (.inl h)
          · rw [hs] at h1
            by_cases e : c = screenCol (ox + col)
            · have : rowBit clip ox b (col + 1) k c = false := by
                cases e' : rowBit clip ox b (col + 1) k c
                · rfl
                · exact absurd e (hoff _ e')
              rw [this] at h1
              exact .inl (.inr ⟨by simpa [e] using h1, e ▸ h2⟩)
            · refine .inr ⟨c, by simpa [e] using h1, ?_⟩
              simpa [plot_pixel, e] using h2
    · simp [blitCols, hc, rowBit_clipped b hc]

/-- The bit the rows `row` to `row + k - 1` of a sprite put on a pixel. -/
def State.rowsBit (s : State) (ox oy row k : Nat) (r : Fin displayH) (c : Fin displayW) : Bool :=
  let dr := ringOffset displayH oy r.val
  decide (row ≤ dr) && decide (dr < row + k) && (!s.params.quirks.clip || decide (oy + dr < displayH)) &&
    rowBit s.params.quirks.clip ox (s.readByte (s.i.toNat + dr)) 0 8 c

/-- A sprite split into its first row and the rest. -/
theorem State.rowsBit_succ {s : State} {ox oy row k : Nat} (ho : oy < displayH) (hk : row + (k + 1) ≤ displayH)
    (hc : (s.params.quirks.clip && decide (displayH ≤ oy + row)) = false) (r : Fin displayH) (c : Fin displayW) :
    s.rowsBit ox oy row (k + 1) r c =
      ((decide (r = screenRow (oy + row)) && rowBit s.params.quirks.clip ox (s.readByte (s.i.toNat + row)) 0 8 c) ^^
        s.rowsBit ox oy (row + 1) k r c) := by
  have key := screenRow_eq_iff ho (show row < displayH by omega) r
  unfold State.rowsBit
  by_cases h : ringOffset displayH oy r.val = row
  · have h1 : r = screenRow (oy + row) := key.2 h
    have h2 : (!s.params.quirks.clip || decide (oy + row < displayH)) = true := by
      cases e : s.params.quirks.clip <;> simp_all
    simp only [h, h2, decide_eq_true h1]
    simp
  · have h1 : ¬ r = screenRow (oy + row) := fun e => h (key.1 e)
    simp only [decide_eq_false h1]
    have h2 : decide (row ≤ ringOffset displayH oy r.val) = decide (row + 1 ≤ ringOffset displayH oy r.val) :=
      decide_eq_decide.2 (by omega)
    have h3 : decide (ringOffset displayH oy r.val < row + (k + 1)) = decide (ringOffset displayH oy r.val < row + 1 + k) :=
      decide_eq_decide.2 (by omega)
    simp [h2, h3]

/-- The whole sprite: every pixel is XORed with the sprite's bit, and a collision is a bit on a lit pixel. -/
theorem State.blitRows_spec (s : State) {ox oy : Nat} (hx : ox < displayW) (hy : oy < displayH) (k : Nat) :
    ∀ (row : Nat) (acc : Framebuffer × Bool), row + k ≤ displayH →
      (∀ r c, Framebuffer.pixel (s.blitRows ox oy k row acc).1 r c =
        (Framebuffer.pixel acc.1 r c ^^ s.rowsBit ox oy row k r c)) ∧
      ((s.blitRows ox oy k row acc).2 = true ↔
        acc.2 = true ∨ ∃ r c, s.rowsBit ox oy row k r c = true ∧ Framebuffer.pixel acc.1 r c = true) := by
  induction k with
  | zero =>
    intro row acc _
    have hz : ∀ r c, s.rowsBit ox oy row 0 r c = false := fun r c => by
      unfold State.rowsBit
      by_cases h : row ≤ ringOffset displayH oy r.val
      · simp [Nat.not_lt.2 h]
      · simp [h]
    simp [State.blitRows, hz]
  | succ k ih =>
    intro row acc hk
    cases hc : (s.params.quirks.clip && decide (displayH ≤ oy + row))
    · have hs := State.rowsBit_succ (s := s) (ox := ox) hy hk hc
      obtain ⟨c1, c2⟩ := blitCols_spec s.params.quirks.clip (screenRow (oy + row)) hx (s.readByte (s.i.toNat + row)) 8 0 acc
        (by omega)
      obtain ⟨ih1, ih2⟩ := ih (row + 1)
        (blitCols s.params.quirks.clip (screenRow (oy + row)) ox (s.readByte (s.i.toNat + row)) 8 0 acc) (by omega)
      rw [show s.blitRows ox oy (k + 1) row acc = s.blitRows ox oy k (row + 1)
        (blitCols s.params.quirks.clip (screenRow (oy + row)) ox (s.readByte (s.i.toNat + row)) 8 0 acc) by
          simp [State.blitRows, hc]]
      have hoff : ∀ r c, s.rowsBit ox oy (row + 1) k r c = true → r ≠ screenRow (oy + row) := fun r c h e => by
        have := (screenRow_eq_iff hy (show row < displayH by omega) r).1 e
        unfold State.rowsBit at h
        simp [this] at h
      have hnone : ∀ c, s.rowsBit ox oy (row + 1) k (screenRow (oy + row)) c = false := fun c => by
        cases e : s.rowsBit ox oy (row + 1) k (screenRow (oy + row)) c
        · rfl
        · exact absurd rfl (hoff _ _ e)
      refine ⟨fun r c => ?_, ?_⟩
      · rw [ih1, c1, hs r c, Bool.xor_assoc]
      · rw [ih2, c2]
        constructor
        · rintro ((h | ⟨c, h1, h2⟩) | ⟨r, c, h1, h2⟩)
          · exact .inl h
          · refine .inr ⟨screenRow (oy + row), c, ?_, h2⟩
            rw [hs, hnone, h1]
            simp
          · refine .inr ⟨r, c, ?_, ?_⟩
            · rw [hs, h1]
              simp [hoff r c h1]
            · simpa [c1, hoff r c h1] using h2
        · rintro (h | ⟨r, c, h1, h2⟩)
          · exact .inl (.inl h)
          · rw [hs] at h1
            by_cases e : r = screenRow (oy + row)
            · subst e
              rw [hnone] at h1
              exact .inl (.inr ⟨c, by simpa using h1, h2⟩)
            · refine .inr ⟨r, c, by simpa [e] using h1, ?_⟩
              simpa [c1, e] using h2
    · have hz : ∀ r c, s.rowsBit ox oy row (k + 1) r c = false := fun r c => by
        simp only [Bool.and_eq_true, decide_eq_true_eq] at hc
        unfold State.rowsBit
        by_cases h : row ≤ ringOffset displayH oy r.val
        · have : ¬ oy + ringOffset displayH oy r.val < displayH := by omega
          simp [hc.1, this]
        · simp [h]
      simp [State.blitRows, hc, hz]

/-- A draw writes the framebuffer, VF and the draw flag, and nothing else (R152). -/
theorem State.blit_eq (s : State) (x y n : Nibble) :
    s.blit x y n =
      ((s.setFb (s.blitResult x y n).1).setReg vf (flagByte (s.blitResult x y n).2)).setDrawFlag true := rfl

end Sys2Proof.Machine
end

