-- ==== Sys2Proof/Laws/Construct.lean ====
section
/-! SUPPORT. What loading a ROM does, said once (70_reset_and_hazards.md R233). -/

namespace Sys2Proof.Machine

open Sys2Proof.Config

/-- Loading a ROM changes memory only. -/
theorem loadRom_eq : ∀ (l : List Byte) (a : Nat) (s : State), loadRom a l s = { s with mem := (loadRom a l s).mem }
  | [], _, _ => rfl
  | b :: l, a, s => by rw [loadRom, loadRom_eq l, State.writeByte]

/-- A byte outside the ROM's place keeps its value. -/
theorem loadRom_readByte_ne : ∀ (l : List Byte) (a : Nat) (s : State), a + l.length ≤ memSize →
    ∀ p < memSize, p < a ∨ a + l.length ≤ p → (loadRom a l s).readByte p = s.readByte p
  | [], _, _, _, _, _, _ => rfl
  | b :: l, a, s, h, p, hp, hq => by
    simp only [List.length_cons] at h hq
    rw [loadRom, loadRom_readByte_ne l (a + 1) _ (by omega) p hp (by omega), State.writeByte_readByte, if_neg]
    rw [Nat.mod_eq_of_lt hp, Nat.mod_eq_of_lt (by omega)]
    omega

/-- ROM byte j is at the address `a + j`. -/
theorem loadRom_readByte : ∀ (l : List Byte) (a : Nat) (s : State), a + l.length ≤ memSize →
    ∀ (j : Nat) (h : j < l.length), (loadRom a l s).readByte (a + j) = l[j]
  | [], _, _, _, j, hj => absurd hj (Nat.not_lt_zero j)
  | b :: l, a, s, h, j, hj => by
    simp only [List.length_cons] at h hj
    cases j with
    | zero =>
      show (loadRom (a + 1) l (s.writeByte a b)).readByte a = b
      rw [loadRom_readByte_ne l (a + 1) _ (by omega) a (by omega) (by omega), State.writeByte_readByte]
      simp
    | succ j =>
      rw [loadRom, show a + (j + 1) = a + 1 + j by omega, loadRom_readByte l (a + 1) _ (by omega) j (by omega)]
      rfl

/-- Loading a ROM keeps the canonical form of memory. -/
theorem loadRom_wf : ∀ (l : List Byte) (a : Nat) (s : State), s.memWf = true → (loadRom a l s).memWf = true
  | [], _, _, h => h
  | b :: l, a, s, h => by
    rw [loadRom]
    exact loadRom_wf l (a + 1) _ (State.writeByte_wf h a b)

/-- The reset contents outside the font are zero (20_memory.md R55). -/
theorem Memory.blank_zero (f : Vector Byte fontSize) {a : Nat} (h : a < 0x050 ∨ 0x0A0 ≤ a) : Memory.blank f a = 0 := by
  unfold Memory.blank
  rw [dif_neg]
  simp only [fontBase, fontSize]
  omega

/-- The reset contents of the font's place are the font (R56). -/
theorem Memory.blank_font (f : Vector Byte fontSize) {k : Nat} (h : k < fontSize) : Memory.blank f (0x050 + k) = f[k] := by
  unfold Memory.blank
  simp [fontBase, h]

end Sys2Proof.Machine
end

