-- ==== Sys2Proof/Laws/Decode.lean ====
section
/-! SUPPORT. The fields of a word written as its parts, one lemma per field and format (30_encoding.md R71). -/

namespace Sys2Proof

/-! ### The bits of a word written as its parts -/

theorem Word.bytes_bit (hi lo : Byte) (i : Nat) :
    (hi ++ lo : Word).getLsbD i = if i < 8 then lo.getLsbD i else hi.getLsbD (i - 8) :=
  BitVec.getLsbD_append

theorem Word.addr_bit (a : Nibble) (nnn : Addr) (i : Nat) :
    (a ++ nnn : Word).getLsbD i = if i < 12 then nnn.getLsbD i else a.getLsbD (i - 12) :=
  BitVec.getLsbD_append

theorem Word.byte_bit (a x : Nibble) (kk : Byte) (i : Nat) :
    (a ++ x ++ kk : Word).getLsbD i = if i < 8 then kk.getLsbD i else if i < 12 then x.getLsbD (i - 8) else a.getLsbD (i - 12) := by
  have h : (a ++ x ++ kk : Word).getLsbD i = if i < 8 then kk.getLsbD i else (a ++ x : Byte).getLsbD (i - 8) :=
    BitVec.getLsbD_append
  have h' : (a ++ x : Byte).getLsbD (i - 8) = if i - 8 < 4 then x.getLsbD (i - 8) else a.getLsbD (i - 8 - 4) :=
    BitVec.getLsbD_append
  rw [h, h']
  repeat' split
  all_goals first | rfl | omega

theorem Word.nibble_bit (a x y n : Nibble) (i : Nat) :
    (a ++ x ++ y ++ n : Word).getLsbD i =
      if i < 4 then n.getLsbD i else if i < 8 then y.getLsbD (i - 4)
      else if i < 12 then x.getLsbD (i - 8) else a.getLsbD (i - 12) := by
  have h : (a ++ x ++ y ++ n : Word).getLsbD i = if i < 4 then n.getLsbD i else (a ++ x ++ y : Addr).getLsbD (i - 4) :=
    BitVec.getLsbD_append
  have h' : (a ++ x ++ y : Addr).getLsbD (i - 4) = if i - 4 < 4 then y.getLsbD (i - 4) else (a ++ x : Byte).getLsbD (i - 4 - 4) :=
    BitVec.getLsbD_append
  have h'' : (a ++ x : Byte).getLsbD (i - 4 - 4) =
      if i - 4 - 4 < 4 then x.getLsbD (i - 4 - 4) else a.getLsbD (i - 4 - 4 - 4) :=
    BitVec.getLsbD_append
  rw [h, h', h'']
  repeat' split
  all_goals first | rfl | omega

/-- A field of a word, bit by bit. -/
theorem Field.bit (w : Word) (start len i : Nat) :
    (w.extractLsb' start len).getLsbD i = (decide (i < len) && w.getLsbD (start + i)) :=
  BitVec.getLsbD_extractLsb' start len w i

/-! ### Format A: class and address -/

theorem Field.c_addr (a : Nibble) (nnn : Addr) : Field.c (a ++ nnn) = a := by
  refine BitVec.eq_of_getLsbD_eq fun i hi => ?_
  unfold Field.c
  rw [Field.bit, Word.addr_bit]
  simp only [hi, decide_true, Bool.true_and]
  repeat' split
  all_goals first | omega | (congr 1; omega)

theorem Field.nnn_addr (a : Nibble) (nnn : Addr) : Field.nnn (a ++ nnn) = nnn := by
  refine BitVec.eq_of_getLsbD_eq fun i hi => ?_
  unfold Field.nnn
  rw [Field.bit, Word.addr_bit]
  simp only [hi, decide_true, Bool.true_and]
  repeat' split
  all_goals first | omega | (congr 1; omega)

/-! ### Formats XK and X: class, register, byte -/

theorem Field.c_byte (a x : Nibble) (kk : Byte) : Field.c (a ++ x ++ kk) = a := by
  refine BitVec.eq_of_getLsbD_eq fun i hi => ?_
  unfold Field.c
  rw [Field.bit, Word.byte_bit]
  simp only [hi, decide_true, Bool.true_and]
  repeat' split
  all_goals first | omega | (congr 1; omega)

theorem Field.x_byte (a x : Nibble) (kk : Byte) : Field.x (a ++ x ++ kk) = x := by
  refine BitVec.eq_of_getLsbD_eq fun i hi => ?_
  unfold Field.x
  rw [Field.bit, Word.byte_bit]
  simp only [hi, decide_true, Bool.true_and]
  repeat' split
  all_goals first | omega | (congr 1; omega)

theorem Field.kk_byte (a x : Nibble) (kk : Byte) : Field.kk (a ++ x ++ kk) = kk := by
  refine BitVec.eq_of_getLsbD_eq fun i hi => ?_
  unfold Field.kk
  rw [Field.bit, Word.byte_bit]
  simp only [hi, decide_true, Bool.true_and]
  repeat' split
  all_goals first | omega | (congr 1; omega)

/-! ### Formats XY and XYN: class, two registers, nibble -/

theorem Field.c_nibble (a x y n : Nibble) : Field.c (a ++ x ++ y ++ n) = a := by
  refine BitVec.eq_of_getLsbD_eq fun i hi => ?_
  unfold Field.c
  rw [Field.bit, Word.nibble_bit]
  simp only [hi, decide_true, Bool.true_and]
  repeat' split
  all_goals first | omega | (congr 1; omega)

theorem Field.x_nibble (a x y n : Nibble) : Field.x (a ++ x ++ y ++ n) = x := by
  refine BitVec.eq_of_getLsbD_eq fun i hi => ?_
  unfold Field.x
  rw [Field.bit, Word.nibble_bit]
  simp only [hi, decide_true, Bool.true_and]
  repeat' split
  all_goals first | omega | (congr 1; omega)

theorem Field.y_nibble (a x y n : Nibble) : Field.y (a ++ x ++ y ++ n) = y := by
  refine BitVec.eq_of_getLsbD_eq fun i hi => ?_
  unfold Field.y
  rw [Field.bit, Word.nibble_bit]
  simp only [hi, decide_true, Bool.true_and]
  repeat' split
  all_goals first | omega | (congr 1; omega)

theorem Field.n_nibble (a x y n : Nibble) : Field.n (a ++ x ++ y ++ n) = n := by
  refine BitVec.eq_of_getLsbD_eq fun i hi => ?_
  unfold Field.n
  rw [Field.bit, Word.nibble_bit]
  simp only [hi, decide_true, Bool.true_and]
  repeat' split
  all_goals first | omega | (congr 1; omega)

/-! ### A word from its fields -/

theorem Field.addr_eta (w : Word) : Field.c w ++ Field.nnn w = w := by
  refine BitVec.eq_of_getLsbD_eq fun i hi => ?_
  rw [Word.addr_bit]
  unfold Field.c Field.nnn
  simp only [Field.bit]
  repeat' split
  all_goals
    rw [decide_eq_true (by omega), Bool.true_and]
    congr 1
    omega

theorem Field.byte_eta (w : Word) : Field.c w ++ Field.x w ++ Field.kk w = w := by
  refine BitVec.eq_of_getLsbD_eq fun i hi => ?_
  rw [Word.byte_bit]
  unfold Field.c Field.x Field.kk
  simp only [Field.bit]
  repeat' split
  all_goals
    rw [decide_eq_true (by omega), Bool.true_and]
    congr 1
    omega

theorem Field.nibble_eta (w : Word) : Field.c w ++ Field.x w ++ Field.y w ++ Field.n w = w := by
  refine BitVec.eq_of_getLsbD_eq fun i hi => ?_
  rw [Word.nibble_bit]
  unfold Field.c Field.x Field.y Field.n
  simp only [Field.bit]
  repeat' split
  all_goals
    rw [decide_eq_true (by omega), Bool.true_and]
    congr 1
    omega

/-! ### First-level decode, class by class (R76) -/

/-- The sixteen values of a nibble. -/
theorem nibble_cases (c : Nibble) :
    c = 0x0 ∨ c = 0x1 ∨ c = 0x2 ∨ c = 0x3 ∨ c = 0x4 ∨ c = 0x5 ∨ c = 0x6 ∨ c = 0x7 ∨
    c = 0x8 ∨ c = 0x9 ∨ c = 0xA ∨ c = 0xB ∨ c = 0xC ∨ c = 0xD ∨ c = 0xE ∨ c = 0xF := by
  revert c; decide

theorem decode_class0 {w : Word} (b : Bool) (h : Field.c w = 0x0#4) :
    decode b w = decodeClass0 w := by
  unfold decode; rw [h]; rfl

theorem decode_class1 {w : Word} (b : Bool) (h : Field.c w = 0x1#4) :
    decode b w = .jp (Field.nnn w) := by
  unfold decode; rw [h]; rfl

theorem decode_class2 {w : Word} (b : Bool) (h : Field.c w = 0x2#4) :
    decode b w = .call (Field.nnn w) := by
  unfold decode; rw [h]; rfl

theorem decode_class3 {w : Word} (b : Bool) (h : Field.c w = 0x3#4) :
    decode b w = .seImm (Field.x w) (Field.kk w) := by
  unfold decode; rw [h]; rfl

theorem decode_class4 {w : Word} (b : Bool) (h : Field.c w = 0x4#4) :
    decode b w = .sneImm (Field.x w) (Field.kk w) := by
  unfold decode; rw [h]; rfl

theorem decode_class5 {w : Word} (b : Bool) (h : Field.c w = 0x5#4) :
    decode b w = if Field.n w = 0#4 ∨ b = false then .seReg (Field.x w) (Field.y w) else .unknown w := by
  unfold decode; rw [h]; rfl

theorem decode_class6 {w : Word} (b : Bool) (h : Field.c w = 0x6#4) :
    decode b w = .ldImm (Field.x w) (Field.kk w) := by
  unfold decode; rw [h]; rfl

theorem decode_class7 {w : Word} (b : Bool) (h : Field.c w = 0x7#4) :
    decode b w = .addImm (Field.x w) (Field.kk w) := by
  unfold decode; rw [h]; rfl

theorem decode_class8 {w : Word} (b : Bool) (h : Field.c w = 0x8#4) :
    decode b w = decodeClass8 w := by
  unfold decode; rw [h]; rfl

theorem decode_class9 {w : Word} (b : Bool) (h : Field.c w = 0x9#4) :
    decode b w = if Field.n w = 0#4 ∨ b = false then .sneReg (Field.x w) (Field.y w) else .unknown w := by
  unfold decode; rw [h]; rfl

theorem decode_classA {w : Word} (b : Bool) (h : Field.c w = 0xA#4) :
    decode b w = .ldI (Field.nnn w) := by
  unfold decode; rw [h]; rfl

theorem decode_classB {w : Word} (b : Bool) (h : Field.c w = 0xB#4) :
    decode b w = .jpV0 (Field.nnn w) := by
  unfold decode; rw [h]; rfl

theorem decode_classC {w : Word} (b : Bool) (h : Field.c w = 0xC#4) :
    decode b w = .rnd (Field.x w) (Field.kk w) := by
  unfold decode; rw [h]; rfl

theorem decode_classD {w : Word} (b : Bool) (h : Field.c w = 0xD#4) :
    decode b w = .drw (Field.x w) (Field.y w) (Field.n w) := by
  unfold decode; rw [h]; rfl

theorem decode_classE {w : Word} (b : Bool) (h : Field.c w = 0xE#4) :
    decode b w = decodeClassE w := by
  unfold decode; rw [h]; rfl

theorem decode_classF {w : Word} (b : Bool) (h : Field.c w = 0xF#4) :
    decode b w = decodeClassF w := by
  unfold decode; rw [h]; rfl

/-- Class 0xE as a chain of tests (R77). -/
theorem decodeClassE_eq (w : Word) : decodeClassE w =
    if Field.kk w = 0x9E#8 then .skp (Field.x w) else if Field.kk w = 0xA1#8 then .sknp (Field.x w) else .unknown w := by
  unfold decodeClassE
  split <;> simp_all

/-- Class 0xF as a chain of tests (R77). -/
theorem decodeClassF_eq (w : Word) : decodeClassF w =
    if Field.kk w = 0x07#8 then .ldVxDt (Field.x w) else if Field.kk w = 0x0A#8 then .ldVxK (Field.x w)
    else if Field.kk w = 0x15#8 then .ldDtVx (Field.x w) else if Field.kk w = 0x18#8 then .ldStVx (Field.x w)
    else if Field.kk w = 0x1E#8 then .addIVx (Field.x w) else if Field.kk w = 0x29#8 then .ldFVx (Field.x w)
    else if Field.kk w = 0x33#8 then .ldBVx (Field.x w) else if Field.kk w = 0x55#8 then .ldMemVx (Field.x w)
    else if Field.kk w = 0x65#8 then .ldVxMem (Field.x w) else .unknown w := by
  unfold decodeClassF
  split <;> simp_all

/-! ### Bytes and words -/

/-- A word's two bytes, high byte first, make the word again (R70). -/
theorem wordOfBytes_bytesOfWord (w : Word) : wordOfBytes (bytesOfWord w).1 (bytesOfWord w).2 = w := by
  refine BitVec.eq_of_getLsbD_eq fun i hi => ?_
  rw [wordOfBytes, Word.bytes_bit]
  split
  · simp [bytesOfWord, *]
  · simp [bytesOfWord, show i - 8 < 8 by omega, show 8 + (i - 8) = i by omega]

/-- Decoding the bytes of a word decodes the word and leaves the rest. -/
theorem decodeBytes_bytesOfWord (strict : Bool) (w : Word) (rest : List Byte) :
    decodeBytes strict ((bytesOfWord w).1 :: (bytesOfWord w).2 :: rest) = .ok (decode strict w, rest) := by
  simp [decodeBytes, wordOfBytes_bytesOfWord]

/-- An instruction's bytes are its word's, the high byte first (R70). -/
theorem encodeBytes_eq (i : Instr) : encodeBytes i = [(bytesOfWord (encode i)).1, (bytesOfWord (encode i)).2] := rfl

/-- Decoding an instruction's bytes decodes its word and leaves the rest. -/
theorem decodeBytes_encodeBytes (strict : Bool) (i : Instr) (rest : List Byte) :
    decodeBytes strict (encodeBytes i ++ rest) = .ok (decode strict (encode i), rest) :=
  decodeBytes_bytesOfWord strict (encode i) rest

/-- `SKIP_REG_STRICT` matters only to classes 0x5 and 0x9 (R81). -/
theorem decode_strict_irrelevant (w : Word) (h5 : Field.c w ≠ 0x5#4) (h9 : Field.c w ≠ 0x9#4) (b b' : Bool) :
    decode b w = decode b' w := by
  unfold decode
  split <;> first | rfl | contradiction

end Sys2Proof
end

