-- ==== Sys2Proof/Laws/Step.lean ====
section
/-! SUPPORT. What a step can do, said once. -/

namespace Sys2Proof.Machine

theorem State.fetched_eq (s : State) : s.fetched = (s.setDrawFlag false).setPc (s.pc + 2) := rfl

/-- A CYCLE of a running CORE runs the instruction at PC (30_encoding.md R73). -/
theorem cycle_running {s : State} (h : s.fault = .noFault) : cycle s = exec s.currentInstr s.fetched := by
  simp [cycle, h]

/-- A CYCLE of a halted CORE changes nothing (30_encoding.md R74). -/
theorem cycle_halted {s : State} (h : s.fault ≠ .noFault) : cycle s = .next s := by
  simp [cycle, h]

/-! ### The instruction at PC depends on memory, PC and the parameters only -/

@[simp] theorem State.setI_currentInstr (s : State) (w : Word) : (s.setI w).currentInstr = s.currentInstr := rfl
@[simp] theorem State.setStack_currentInstr (s : State) (l : List Word) : (s.setStack l).currentInstr = s.currentInstr := rfl
@[simp] theorem State.setDt_currentInstr (s : State) (b : Byte) : (s.setDt b).currentInstr = s.currentInstr := rfl
@[simp] theorem State.setSt_currentInstr (s : State) (b : Byte) : (s.setSt b).currentInstr = s.currentInstr := rfl
@[simp] theorem State.setFb_currentInstr (s : State) (f : Framebuffer) : (s.setFb f).currentInstr = s.currentInstr := rfl
@[simp] theorem State.setKeys_currentInstr (s : State) (k : Vector Bool 16) : (s.setKeys k).currentInstr = s.currentInstr := rfl
@[simp] theorem State.setLatch_currentInstr (s : State) (l : Option Nibble) : (s.setLatch l).currentInstr = s.currentInstr := rfl
@[simp] theorem State.setDw_currentInstr (s : State) (d : DwState) : (s.setDw d).currentInstr = s.currentInstr := rfl
@[simp] theorem State.setFault_currentInstr (s : State) (f : FaultCode) : (s.setFault f).currentInstr = s.currentInstr := rfl
@[simp] theorem State.setDrawFlag_currentInstr (s : State) (b : Bool) : (s.setDrawFlag b).currentInstr = s.currentInstr := rfl
@[simp] theorem State.setDraws_currentInstr (s : State) (n : Nat) : (s.setDraws n).currentInstr = s.currentInstr := rfl
@[simp] theorem State.setSchedule_currentInstr (s : State) (l : List Transaction) : (s.setSchedule l).currentInstr = s.currentInstr := rfl
@[simp] theorem State.setReg_currentInstr (s : State) (x : Nibble) (b : Byte) : (s.setReg x b).currentInstr = s.currentInstr := rfl

/-- A rewind undoes the fetch's advance of PC (00_scope.md R17). -/
theorem State.fetched_rewind (s : State) : s.fetched.rewind = s.setDrawFlag false := by
  rw [State.fetched_eq, State.rewind_eq, State.setPc_pc, rewind_of_fetched]
  rfl

/-! ### What a transaction does -/

/-- The transactions other than CYCLE: each answers a next state, given here. -/
def hostEffect : Transaction → State → State
  | .cycle, s => s
  | .tick, s => tick s
  | .keys snapshot, s => s.setKeys snapshot
  | .refresh, s => refresh s
  | .readFb, s => s
  | .readTimers, s => s
  | .readStatus, s => s

@[simp] theorem hostEffect_tick (s : State) : hostEffect .tick s = (s.setDt (countDown s.dt)).setSt (countDown s.st) := rfl
@[simp] theorem hostEffect_keys (k : Vector Bool 16) (s : State) : hostEffect (.keys k) s = s.setKeys k := rfl
@[simp] theorem hostEffect_refresh (s : State) : hostEffect .refresh s = refresh s := rfl
@[simp] theorem hostEffect_readFb (s : State) : hostEffect .readFb s = s := rfl
@[simp] theorem hostEffect_readTimers (s : State) : hostEffect .readTimers s = s := rfl
@[simp] theorem hostEffect_readStatus (s : State) : hostEffect .readStatus s = s := rfl

/-- Everything a step can do: a CYCLE, running or halted, on a schedule that names it or is empty, or another transaction. -/
theorem step_cases {s t : State} (h : step s = .next t) :
    (∃ rest, (s.schedule = .cycle :: rest ∨ s.schedule = [] ∧ rest = []) ∧ s.fault = .noFault ∧
      exec s.currentInstr (s.fetched.setSchedule rest) = .next t) ∨
    (∃ rest, (s.schedule = .cycle :: rest ∨ s.schedule = [] ∧ rest = []) ∧ s.fault ≠ .noFault ∧ t = s.setSchedule rest) ∨
    (∃ x rest, s.schedule = x :: rest ∧ x ≠ .cycle ∧ t = hostEffect x (s.setSchedule rest)) := by
  have cyc : ∀ rest, cycle (s.setSchedule rest) = .next t →
      (s.fault = .noFault ∧ exec s.currentInstr (s.fetched.setSchedule rest) = .next t) ∨
      (s.fault ≠ .noFault ∧ t = s.setSchedule rest) := fun rest h => by
    by_cases hf : s.fault = .noFault
    · rw [cycle_running (by simpa using hf)] at h
      exact .inl ⟨hf, h⟩
    · rw [cycle_halted (by simpa using hf)] at h
      exact .inr ⟨hf, by injection h with h; exact h.symm⟩
  have other : ∀ (x : Transaction) (rest : List Transaction), s.schedule = x :: rest → x ≠ .cycle →
      Host.Outcome.next (φ := Fault) (ρ := Refusal) (hostEffect x (s.setSchedule rest)) = .next t →
      ∃ x rest, s.schedule = x :: rest ∧ x ≠ .cycle ∧ t = hostEffect x (s.setSchedule rest) :=
    fun x rest hs hx e => ⟨x, rest, hs, hx, by injection e with e; exact e.symm⟩
  unfold step nextTransaction at h
  cases hs : s.schedule with
  | nil =>
    rw [hs] at h
    have e : s.setSchedule [] = s := by unfold State.setSchedule; rw [← hs]
    rcases cyc [] (by rw [e]; exact h) with ⟨h1, h2⟩ | ⟨h1, h2⟩
    · exact .inl ⟨[], .inr ⟨rfl, rfl⟩, h1, h2⟩
    · exact .inr (.inl ⟨[], .inr ⟨rfl, rfl⟩, h1, h2⟩)
  | cons x rest =>
    rw [hs] at h
    rw [hs] at other
    cases x with
    | cycle =>
      rcases cyc rest h with ⟨h1, h2⟩ | ⟨h1, h2⟩
      · exact .inl ⟨rest, .inl rfl, h1, h2⟩
      · exact .inr (.inl ⟨rest, .inl rfl, h1, h2⟩)
    | tick => exact .inr (.inr (other _ _ rfl (by simp) h))
    | keys k => exact .inr (.inr (other _ _ rfl (by simp) h))
    | refresh => exact .inr (.inr (other _ _ rfl (by simp) h))
    | readFb => exact .inr (.inr (other _ _ rfl (by simp) h))
    | readTimers => exact .inr (.inr (other _ _ rfl (by simp) h))
    | readStatus => exact .inr (.inr (other _ _ rfl (by simp) h))

/-- A scheduled transaction other than CYCLE answers `hostEffect` on the state without it. -/
theorem step_host {s : State} {x : Transaction} {rest : List Transaction} (h : s.schedule = x :: rest) (hx : x ≠ .cycle) :
    step s = .next (hostEffect x (s.setSchedule rest)) := by
  unfold step nextTransaction
  rw [h]
  cases x <;> first | rfl | exact absurd rfl hx

/-- A scheduled CYCLE, or none scheduled, is a CYCLE on the state without it. -/
theorem step_cycle {s : State} {rest : List Transaction} (h : s.schedule = .cycle :: rest ∨ s.schedule = [] ∧ rest = []) :
    step s = cycle (s.setSchedule rest) := by
  unfold step nextTransaction
  rcases h with h | ⟨h, rfl⟩
  · rw [h]
    rfl
  · rw [h, show s.setSchedule [] = s by unfold State.setSchedule; rw [← h]]

/-- A run takes one step after another. -/
theorem core_run_succ (k : Nat) {s t : State} (h : step s = .next t) : core.run (k + 1) s = core.run k t := by
  simp only [Host.Core.run]
  rw [show core.step s = .next t from h]

@[simp] theorem core_run_zero (s : State) : core.run 0 s = .next s := rfl

/-- REFRESH in its two cases (42_display.md R164). -/
theorem refresh_cases (s : State) :
    (s.dwstate = .waiting ∧ refresh s = s.setDw .refreshFinished) ∨ (s.dwstate ≠ .waiting ∧ refresh s = s) := by
  unfold refresh
  cases s.dwstate <;> simp

/-- What is stored at PC is what the next CYCLE fetches. -/
theorem State.storeWordAtPc_fetchWord (s : State) (w : Word) : (s.storeWordAtPc w).fetchWord = w := by
  have h : ¬ s.pc.toNat % Config.memSize = (s.pc.toNat + 1) % Config.memSize := by
    simp only [Config.memSize]
    omega
  simp [State.fetchWord, State.storeWordAtPc, State.writeByte_readByte, h, wordOfBytes_bytesOfWord]

end Sys2Proof.Machine
end

