-- ==== Sys2Proof/Laws/Exec.lean ====
section
/-! SUPPORT. Small facts about the meanings that more than one statement needs. -/

namespace Sys2Proof.Machine

open Sys2Proof.Config

/-- A store changes memory only. -/
theorem State.writeByte_eq (s : State) (a : Nat) (b : Byte) :
    s.writeByte a b = { s with mem := (s.writeByte a b).mem } := rfl

/-- `LogicFlag(x)` leaves everything but VF and the count of draws alone (41_alu.md R126). -/
theorem State.logicFlag_eq (s : State) (x : Nibble) :
    s.logicFlag x = { s with v := (s.logicFlag x).v, draws := (s.logicFlag x).draws } := by
  rcases State.logicFlag_cases s x with ⟨_, h⟩ | ⟨_, _, h⟩ | ⟨_, _, h⟩ <;> rw [h] <;> rfl

/-- KeyPressed leaves everything but the count of draws alone (43_keyboard.md R170). -/
theorem State.keyPressed_eq (s : State) (b : Byte) :
    (s.keyPressed b).2 = { s with draws := (s.keyPressed b).2.draws } := by
  rcases State.keyPressed_cases s b with ⟨_, h⟩ | ⟨_, h⟩
  · rw [h]
  · rw [h]
    rfl

end Sys2Proof.Machine
end

