-- ==== Sys2Proof/Laws/PerInstr.lean ====
section
/-! SUPPORT. Statements made once per instruction, about the instruction as syntax. -/

namespace Sys2Proof.Laws.FixedBits

open Sys2Proof

/-- The encoded word carries the fixed bits of its row: masked with the row's mask it is the row's match (30_encoding.md R78), under
either `SKIP_REG_STRICT`. -/
def Statement (i : Instr) : Prop := ∀ strict : Bool, encode i &&& (opcodeRow strict i).2 = (opcodeRow strict i).1

/-- The mask 0xF000 keeps the class (R76). -/
theorem mask_class (w : Word) : w &&& 0xF000#16 = Field.c w ++ 0#12 := by
  refine BitVec.eq_of_getLsbD_eq fun i hi => ?_
  rw [BitVec.getLsbD_and, Word.addr_bit, Field.c, Field.bit]
  interval_cases i <;> simp

/-- The mask 0xF00F keeps the class and the nibble `n` (R77). -/
theorem mask_nibble (w : Word) : w &&& 0xF00F#16 = Field.c w ++ 0#4 ++ 0#4 ++ Field.n w := by
  refine BitVec.eq_of_getLsbD_eq fun i hi => ?_
  rw [BitVec.getLsbD_and, Word.nibble_bit, Field.c, Field.n, Field.bit, Field.bit]
  interval_cases i <;> simp

/-- The mask 0xF0FF keeps the class and the byte `kk` (R77). -/
theorem mask_byte (w : Word) : w &&& 0xF0FF#16 = Field.c w ++ 0#4 ++ Field.kk w := by
  refine BitVec.eq_of_getLsbD_eq fun i hi => ?_
  rw [BitVec.getLsbD_and, Word.byte_bit, Field.c, Field.kk, Field.bit, Field.bit]
  interval_cases i <;> simp

theorem cls : Statement .cls := by
  intro strict
  cases strict <;> decide

theorem ret : Statement .ret := by
  intro strict
  cases strict <;> decide

theorem jp (nnn : Addr) : Statement (.jp nnn) := by
  intro _
  exact (mask_class _).trans (by rw [encode, Field.c_addr]; rfl)

theorem call (nnn : Addr) : Statement (.call nnn) := by
  intro _
  exact (mask_class _).trans (by rw [encode, Field.c_addr]; rfl)

theorem seImm (x : Nibble) (kk : Byte) : Statement (.seImm x kk) := by
  intro _
  exact (mask_class _).trans (by rw [encode, Field.c_byte]; rfl)

theorem sneImm (x : Nibble) (kk : Byte) : Statement (.sneImm x kk) := by
  intro _
  exact (mask_class _).trans (by rw [encode, Field.c_byte]; rfl)

theorem seReg (x y : Nibble) : Statement (.seReg x y) := by
  intro strict
  cases strict
  · exact (mask_class _).trans (by rw [encode, Field.c_nibble]; rfl)
  · exact (mask_nibble _).trans (by rw [encode, Field.c_nibble, Field.n_nibble]; rfl)

theorem ldImm (x : Nibble) (kk : Byte) : Statement (.ldImm x kk) := by
  intro _
  exact (mask_class _).trans (by rw [encode, Field.c_byte]; rfl)

theorem addImm (x : Nibble) (kk : Byte) : Statement (.addImm x kk) := by
  intro _
  exact (mask_class _).trans (by rw [encode, Field.c_byte]; rfl)

theorem ldReg (x y : Nibble) : Statement (.ldReg x y) := by
  intro _
  exact (mask_nibble _).trans (by rw [encode, Field.c_nibble, Field.n_nibble]; rfl)

theorem orReg (x y : Nibble) : Statement (.orReg x y) := by
  intro _
  exact (mask_nibble _).trans (by rw [encode, Field.c_nibble, Field.n_nibble]; rfl)

theorem andReg (x y : Nibble) : Statement (.andReg x y) := by
  intro _
  exact (mask_nibble _).trans (by rw [encode, Field.c_nibble, Field.n_nibble]; rfl)

theorem xorReg (x y : Nibble) : Statement (.xorReg x y) := by
  intro _
  exact (mask_nibble _).trans (by rw [encode, Field.c_nibble, Field.n_nibble]; rfl)

theorem addReg (x y : Nibble) : Statement (.addReg x y) := by
  intro _
  exact (mask_nibble _).trans (by rw [encode, Field.c_nibble, Field.n_nibble]; rfl)

theorem subReg (x y : Nibble) : Statement (.subReg x y) := by
  intro _
  exact (mask_nibble _).trans (by rw [encode, Field.c_nibble, Field.n_nibble]; rfl)

theorem shrReg (x y : Nibble) : Statement (.shrReg x y) := by
  intro _
  exact (mask_nibble _).trans (by rw [encode, Field.c_nibble, Field.n_nibble]; rfl)

theorem subnReg (x y : Nibble) : Statement (.subnReg x y) := by
  intro _
  exact (mask_nibble _).trans (by rw [encode, Field.c_nibble, Field.n_nibble]; rfl)

theorem shlReg (x y : Nibble) : Statement (.shlReg x y) := by
  intro _
  exact (mask_nibble _).trans (by rw [encode, Field.c_nibble, Field.n_nibble]; rfl)

theorem sneReg (x y : Nibble) : Statement (.sneReg x y) := by
  intro strict
  cases strict
  · exact (mask_class _).trans (by rw [encode, Field.c_nibble]; rfl)
  · exact (mask_nibble _).trans (by rw [encode, Field.c_nibble, Field.n_nibble]; rfl)

theorem ldI (nnn : Addr) : Statement (.ldI nnn) := by
  intro _
  exact (mask_class _).trans (by rw [encode, Field.c_addr]; rfl)

theorem jpV0 (nnn : Addr) : Statement (.jpV0 nnn) := by
  intro _
  exact (mask_class _).trans (by rw [encode, Field.c_addr]; rfl)

theorem rnd (x : Nibble) (kk : Byte) : Statement (.rnd x kk) := by
  intro _
  exact (mask_class _).trans (by rw [encode, Field.c_byte]; rfl)

theorem drw (x y n : Nibble) : Statement (.drw x y n) := by
  intro _
  exact (mask_class _).trans (by rw [encode, Field.c_nibble]; rfl)

theorem skp (x : Nibble) : Statement (.skp x) := by
  intro _
  exact (mask_byte _).trans (by rw [encode, Field.c_byte, Field.kk_byte]; rfl)

theorem sknp (x : Nibble) : Statement (.sknp x) := by
  intro _
  exact (mask_byte _).trans (by rw [encode, Field.c_byte, Field.kk_byte]; rfl)

theorem ldVxDt (x : Nibble) : Statement (.ldVxDt x) := by
  intro _
  exact (mask_byte _).trans (by rw [encode, Field.c_byte, Field.kk_byte]; rfl)

theorem ldVxK (x : Nibble) : Statement (.ldVxK x) := by
  intro _
  exact (mask_byte _).trans (by rw [encode, Field.c_byte, Field.kk_byte]; rfl)

theorem ldDtVx (x : Nibble) : Statement (.ldDtVx x) := by
  intro _
  exact (mask_byte _).trans (by rw [encode, Field.c_byte, Field.kk_byte]; rfl)

theorem ldStVx (x : Nibble) : Statement (.ldStVx x) := by
  intro _
  exact (mask_byte _).trans (by rw [encode, Field.c_byte, Field.kk_byte]; rfl)

theorem addIVx (x : Nibble) : Statement (.addIVx x) := by
  intro _
  exact (mask_byte _).trans (by rw [encode, Field.c_byte, Field.kk_byte]; rfl)

theorem ldFVx (x : Nibble) : Statement (.ldFVx x) := by
  intro _
  exact (mask_byte _).trans (by rw [encode, Field.c_byte, Field.kk_byte]; rfl)

theorem ldBVx (x : Nibble) : Statement (.ldBVx x) := by
  intro _
  exact (mask_byte _).trans (by rw [encode, Field.c_byte, Field.kk_byte]; rfl)

theorem ldMemVx (x : Nibble) : Statement (.ldMemVx x) := by
  intro _
  exact (mask_byte _).trans (by rw [encode, Field.c_byte, Field.kk_byte]; rfl)

theorem ldVxMem (x : Nibble) : Statement (.ldVxMem x) := by
  intro _
  exact (mask_byte _).trans (by rw [encode, Field.c_byte, Field.kk_byte]; rfl)

theorem unknown (w : Word) : Statement (.unknown w) := by
  intro _
  exact BitVec.and_zero

end Sys2Proof.Laws.FixedBits
end

