-- ==== Sys2Proof/Tests/Slice0.lean ====
section
/-! SUPPORT. The model's own tests. Every expected value is from spec/: the vectors of 95_test_vectors.md (named by their ids) and
the patterns of 30_encoding.md R78. The theorems named `witness_…` show that the hypotheses of a statement, and of each of its
clauses, are met by a state and operands. -/

namespace Sys2Proof.Tests

open Sys2Proof Sys2Proof.Machine Sys2Proof.Claims Sys2Proof.Config

/-! ### Helpers -/

/-- The reset state with a word at 0x200. -/
def fresh (w : Word) : State := State.reset.storeWordAtPc w

/-- The next state an outcome holds, if it holds one. -/
def after (o : Host.Outcome State Fault Refusal) : Option State :=
  match o with
  | .next t => some t
  | .fault _ => none
  | .refused _ => none

/-- A state with other quirks. -/
def withQuirks (s : State) (f : Quirks → Quirks) : State := { s with params := { s.params with quirks := f s.params.quirks } }

/-- A state with another `STACK_DEPTH`. -/
def withDepth (s : State) (n : Nat) : State := { s with params := { s.params with stackDepth := some n } }

/-- A state with `SKIP_REG_STRICT` false. -/
def lax (s : State) : State := { s with params := { s.params with skipRegStrict := false } }

/-- A snapshot of the listed keys. -/
def pressing (l : List Nibble) : Vector Bool 16 := Vector.ofFn fun k => l.contains (BitVec.ofFin k)

/-- What one step gives, seen through `f`. -/
def seen {α : Type} (s : State) (f : State → α) : Option α := (after (step s)).map f

/-- The lit pixels of a row. -/
def lit (s : State) (r : Fin displayH) : List (Fin displayW) := (List.finRange displayW).filter (Framebuffer.pixel s.fb r)

/-- The state of the display vectors: I = 0x300, `D011` or another word at 0x200, the given bytes at 0x300 and 0x301. -/
def sprite (w : Word) (b0 b1 : Byte) : State := (((fresh w).setI 0x300).writeByte 0x300 b0).writeByte 0x301 b1

/-! ### WellFormed: each check refuses an ill-formed term (30_encoding.md R80) -/

theorem test_wf_refuses_class0 : Instr.wellFormed true (.unknown 0x00E0) = false ∧ Instr.wellFormed true (.unknown 0x00EE) = false := by
  decide

theorem test_wf_refuses_class59 :
    Instr.wellFormed true (.unknown 0x5120) = false ∧ Instr.wellFormed false (.unknown 0x5121) = false ∧
    Instr.wellFormed true (.unknown 0x9120) = false ∧ Instr.wellFormed false (.unknown 0x9121) = false := by
  decide

theorem test_wf_refuses_class8 : Instr.wellFormed true (.unknown 0x8ABE) = false ∧ Instr.wellFormed true (.unknown 0x8AB7) = false := by
  decide

theorem test_wf_refuses_classEF :
    Instr.wellFormed true (.unknown 0xE09E) = false ∧ Instr.wellFormed true (.unknown 0xE0A1) = false ∧
    Instr.wellFormed true (.unknown 0xF065) = false ∧ Instr.wellFormed true (.unknown 0xF00A) = false := by
  decide

theorem test_wf_refuses_other_classes :
    Instr.wellFormed true (.unknown 0x1000) = false ∧ Instr.wellFormed true (.unknown 0xDFFF) = false := by
  decide

/-- The whole-word rows of R80 and DEC-8 are well formed as UNKNOWN. -/
theorem test_wf_accepts_unknown :
    [0x0000, 0x0123, 0x01E0, 0x5121, 0x912F, 0x8008, 0x800F, 0xE000, 0xE09F, 0xF000, 0xF0FF, 0xFFFF].all
      (fun w => Instr.wellFormed true (.unknown w)) = true := by
  decide

/-! ### Decode: one word per constructor, its bits written out from the pattern of R78 -/

theorem test_decode_flow :
    decode true 0b0000_0000_1110_1110 = .ret ∧
    decode true 0b0001_0010_1010_0100 = .jp 0x2A4 ∧
    decode true 0b0010_0011_0000_0001 = .call 0x301 ∧
    decode true 0b1011_0011_0000_0010 = .jpV0 0x302 := by
  decide

theorem test_decode_skips :
    decode true 0b0011_0001_0100_0010 = .seImm 0x1 0x42 ∧
    decode true 0b0100_0010_1000_0001 = .sneImm 0x2 0x81 ∧
    decode true 0b0101_1010_1011_0000 = .seReg 0xA 0xB ∧
    decode true 0b1001_1100_0011_0000 = .sneReg 0xC 0x3 ∧
    decode true 0b1110_0101_1001_1110 = .skp 0x5 ∧
    decode true 0b1110_0110_1010_0001 = .sknp 0x6 := by
  decide

theorem test_decode_alu :
    decode true 0b0110_1010_0111_1111 = .ldImm 0xA 0x7F ∧
    decode true 0b0111_0001_1000_0000 = .addImm 0x1 0x80 ∧
    decode true 0b1000_0001_0010_0000 = .ldReg 0x1 0x2 ∧
    decode true 0b1000_0001_0010_0001 = .orReg 0x1 0x2 ∧
    decode true 0b1000_0001_0010_0010 = .andReg 0x1 0x2 ∧
    decode true 0b1000_0001_0010_0011 = .xorReg 0x1 0x2 ∧
    decode true 0b1000_0001_0010_0100 = .addReg 0x1 0x2 ∧
    decode true 0b1000_0001_0010_0101 = .subReg 0x1 0x2 ∧
    decode true 0b1000_0001_0010_0110 = .shrReg 0x1 0x2 ∧
    decode true 0b1000_0001_0010_0111 = .subnReg 0x1 0x2 ∧
    decode true 0b1000_0001_0010_1110 = .shlReg 0x1 0x2 ∧
    decode true 0b1100_1001_0110_0101 = .rnd 0x9 0x65 := by
  decide

theorem test_decode_display : decode true 0b0000_0000_1110_0000 = .cls ∧ decode true 0b1101_0001_0010_1111 = .drw 0x1 0x2 0xF := by
  decide

theorem test_decode_index :
    decode true 0b1010_1111_1110_0001 = .ldI 0xFE1 ∧
    decode true 0b1111_0001_0000_0111 = .ldVxDt 0x1 ∧
    decode true 0b1111_0010_0000_1010 = .ldVxK 0x2 ∧
    decode true 0b1111_0011_0001_0101 = .ldDtVx 0x3 ∧
    decode true 0b1111_0100_0001_1000 = .ldStVx 0x4 ∧
    decode true 0b1111_0101_0001_1110 = .addIVx 0x5 ∧
    decode true 0b1111_0110_0010_1001 = .ldFVx 0x6 ∧
    decode true 0b1111_0111_0011_0011 = .ldBVx 0x7 ∧
    decode true 0b1111_1000_0101_0101 = .ldMemVx 0x8 ∧
    decode true 0b1111_1001_0110_0101 = .ldVxMem 0x9 := by
  decide

/-- DEC-2, DEC-3, DEC-5 and DEC-8; with `SKIP_REG_STRICT` false, DEC-6 and DEC-7. -/
theorem test_decode_unknown :
    decode true 0x0123 = .unknown 0x0123 ∧ decode true 0x01E0 = .unknown 0x01E0 ∧ decode true 0x5121 = .unknown 0x5121 ∧
    decode true 0x8008 = .unknown 0x8008 ∧ decode true 0xE09F = .unknown 0xE09F ∧ decode true 0xFFFF = .unknown 0xFFFF ∧
    decode false 0x5121 = .seReg 0x1 0x2 ∧ decode false 0x912F = .sneReg 0x1 0x2 := by
  decide

/-- Bytes in memory order, and one byte refused by name. -/
theorem test_decode_bytes :
    (decodeBytes true [0x12, 0x34, 0x56]).toOption = some (.jp 0x234, [0x56]) ∧
    (decodeBytes true [0x12]).toOption = none ∧
    encodeBytes (.jp 0x234) = [0x12, 0x34] := by
  decide

/-- What the host asks: the table's bits, and the same instruction as the first one after reset (DEC-1). -/
theorem test_table_word :
    decodeTableWord 16 0x1234 = some (.jp 0x234) ∧ decodeTableWord 16 0xD12F = some (.drw 0x1 0x2 0xF) ∧
    seen (State.reset.withFetchWord 16 0x1234) (·.pc) = some 0x0234 := by
  decide

/-! ### Fetch and unknown words -/

/-- DEC-2. -/
theorem test_unknown_is_noop : after (step (fresh 0x0123)) = some ((fresh 0x0123).setPc 0x0202) := by
  decide

/-- DEC-9: the second byte of the fetch at 0xFFF is mem[0x000]. -/
theorem test_fetch_wraps :
    seen (((State.reset.setPc 0x0FFF).writeByte 0xFFF 0x60).writeByte 0x000 0x42) (fun t => (t.reg 0x0, t.pc)) =
      some (0x42, 0x1001) := by
  decide

/-- DEC-11. -/
theorem test_fetch_clears_draw_flag : seen ((fresh 0x6000).setDrawFlag true) (·.drawFlag) = some false := by
  decide

/-- DEC-12. -/
theorem test_halted_cycle :
    after (step (((fresh 0x6001).setFault .stackUnderflow).setDrawFlag true)) =
      some (((fresh 0x6001).setFault .stackUnderflow).setDrawFlag true) := by
  decide

/-! ### Control flow -/

/-- FLOW-2. -/
theorem test_jp_odd : seen (fresh 0x1201) (·.pc) = some 0x0201 := by
  decide

/-- FLOW-7 (the top entry first) and FLOW-6. -/
theorem test_call : seen (withDepth ((fresh 0x2300).setStack [0x0400]) 2) (fun t => (t.stack, t.pc, t.fault)) =
    some ([0x0202, 0x0400], 0x0300, .noFault) := by
  decide

theorem test_call_overflow :
    seen (withDepth ((fresh 0x2300).setStack [0x0500, 0x0400]) 2) (fun t => (t.stack, t.pc, t.statusView)) =
      some ([0x0500, 0x0400], 0x0202, 0x0200) := by
  decide

/-- FLOW-4 and FLOW-5. -/
theorem test_ret : seen ((fresh 0x00EE).setStack [0x0302, 0x0400]) (fun t => (t.pc, t.stack)) = some (0x0302, [0x0400]) := by
  decide

theorem test_ret_underflow : seen (fresh 0x00EE) (fun t => (t.statusView, t.pc)) = some (0x0100, 0x0202) := by
  decide

/-- FLOW-11 and FLOW-10. -/
theorem test_jpV0_unmasked : seen ((fresh 0xBFFF).setReg 0x0 0xFF) (·.pc) = some 0x10FE := by
  decide

theorem test_jpV0_jumpx :
    seen (withQuirks (((fresh 0xB300).setReg 0x0 0x04).setReg 0x3 0x10) fun q => { q with jumpx := true }) (·.pc) =
      some 0x0310 := by
  decide

/-- FLOW-12, FLOW-13. -/
theorem test_seImm :
    seen ((fresh 0x3142).setReg 0x1 0x42) (·.pc) = some 0x0204 ∧ seen ((fresh 0x3142).setReg 0x1 0x41) (·.pc) = some 0x0202 := by
  decide

/-- FLOW-14, FLOW-15. -/
theorem test_sneImm :
    seen ((fresh 0x4142).setReg 0x1 0x41) (·.pc) = some 0x0204 ∧ seen ((fresh 0x4142).setReg 0x1 0x42) (·.pc) = some 0x0202 := by
  decide

/-- FLOW-16, FLOW-17, and DEC-5 and DEC-6. -/
theorem test_seReg :
    seen (((fresh 0x5120).setReg 0x1 0x09).setReg 0x2 0x09) (·.pc) = some 0x0204 ∧
    seen (((fresh 0x5120).setReg 0x1 0x09).setReg 0x2 0x0A) (·.pc) = some 0x0202 := by
  decide

theorem test_seReg_strict : seen (fresh 0x5121) (·.pc) = some 0x0202 ∧ seen (lax (fresh 0x5121)) (·.pc) = some 0x0204 := by
  decide

/-- FLOW-18, FLOW-19, and DEC-7. -/
theorem test_sneReg :
    seen (((fresh 0x9120).setReg 0x1 0x09).setReg 0x2 0x0A) (·.pc) = some 0x0204 ∧
    seen (((fresh 0x9120).setReg 0x1 0x09).setReg 0x2 0x09) (·.pc) = some 0x0202 := by
  decide

theorem test_sneReg_lax : seen (lax ((fresh 0x912F).setReg 0x1 0x07)) (·.pc) = some 0x0204 := by
  decide

/-! ### Arithmetic, logic, random -/

/-- ALU-1. -/
theorem test_ldImm : seen (fresh 0x6A7F) (fun t => (t.reg 0xA, t.pc)) = some (0x7F, 0x0202) := by
  decide

/-- ALU-2 and ALU-3. -/
theorem test_addImm :
    seen (((fresh 0x7001).setReg 0x0 0xFF).setReg 0xF 0x33) (fun t => (t.reg 0x0, t.reg 0xF)) = some (0x00, 0x33) ∧
    seen ((fresh 0x7F03).setReg 0xF 0xFE) (·.reg 0xF) = some 0x01 := by
  decide

/-- ALU-4. -/
theorem test_ldReg :
    seen (((fresh 0x8010).setReg 0x1 0x5A).setReg 0x0 0x11) (fun t => (t.reg 0x0, t.reg 0x1)) = some (0x5A, 0x5A) := by
  decide

/-- ALU-5, and ALU-6 (VF is a free byte, whatever it is: one is drawn), ALU-7 and ALU-8 for OR. -/
theorem test_orReg :
    seen ((((fresh 0x8011).setReg 0x0 0x0C).setReg 0x1 0x0A).setReg 0xF 0x77) (fun t => (t.reg 0x0, t.reg 0xF)) =
      some (0x0E, 0x00) := by
  decide

theorem test_orReg_vf :
    seen (withQuirks (((fresh 0x8F11).setReg 0xF 0x0C).setReg 0x1 0x0A) fun q => { q with vfreset := false })
      (fun t => (t.reg 0xF, t.draws)) = some (0x0E, 0) ∧
    seen (((fresh 0x8F11).setReg 0xF 0x0C).setReg 0x1 0x0A) (·.reg 0xF) = some 0x00 ∧
    seen (withQuirks (((fresh 0x8011).setReg 0x0 0x0C).setReg 0x1 0x0A) fun q => { q with vfreset := false })
      (fun t => (t.reg 0x0, t.draws)) = some (0x0E, 1) := by
  decide

theorem test_andReg :
    seen ((((fresh 0x8012).setReg 0x0 0x0C).setReg 0x1 0x0A).setReg 0xF 0x77) (fun t => (t.reg 0x0, t.reg 0xF)) =
      some (0x08, 0x00) := by
  decide

theorem test_xorReg :
    seen ((((fresh 0x8013).setReg 0x0 0x0C).setReg 0x1 0x0A).setReg 0xF 0x77) (fun t => (t.reg 0x0, t.reg 0xF)) =
      some (0x06, 0x00) := by
  decide

/-- ALU-9, and ALU-11 and ALU-12. -/
theorem test_addReg :
    seen (((fresh 0x8014).setReg 0x0 0xFF).setReg 0x1 0x01) (fun t => (t.reg 0x0, t.reg 0xF)) = some (0x00, 0x01) := by
  decide

theorem test_addReg_vf :
    seen (((fresh 0x8F14).setReg 0xF 0xFF).setReg 0x1 0x01) (·.reg 0xF) = some 0x01 ∧
    seen (((fresh 0x80F4).setReg 0x0 0x10).setReg 0xF 0x01) (fun t => (t.reg 0x0, t.reg 0xF)) = some (0x11, 0x00) := by
  decide

/-- ALU-13, and ALU-14 at equal operands. -/
theorem test_subReg :
    seen (((fresh 0x8015).setReg 0x0 0x05).setReg 0x1 0x0A) (fun t => (t.reg 0x0, t.reg 0xF)) = some (0xFB, 0x00) ∧
    seen (((fresh 0x8015).setReg 0x0 0x33).setReg 0x1 0x33) (fun t => (t.reg 0x0, t.reg 0xF)) = some (0x00, 0x01) := by
  decide

/-- ALU-15 and ALU-16. -/
theorem test_subnReg :
    seen (((fresh 0x8017).setReg 0x0 0x05).setReg 0x1 0x0A) (fun t => (t.reg 0x0, t.reg 0xF)) = some (0x05, 0x01) ∧
    seen (((fresh 0x8017).setReg 0x0 0x0A).setReg 0x1 0x05) (fun t => (t.reg 0x0, t.reg 0xF)) = some (0xFB, 0x00) := by
  decide

/-- ALU-17 and ALU-18. -/
theorem test_shrReg :
    seen (((fresh 0x8016).setReg 0x0 0x04).setReg 0x1 0x05) (fun t => (t.reg 0x0, t.reg 0x1, t.reg 0xF)) =
      some (0x02, 0x05, 0x01) ∧
    seen (withQuirks (((fresh 0x8016).setReg 0x0 0x04).setReg 0x1 0x05) fun q => { q with shiftx := true })
      (fun t => (t.reg 0x0, t.reg 0xF)) = some (0x02, 0x00) := by
  decide

/-- ALU-21 and ALU-23. -/
theorem test_shlReg :
    seen ((fresh 0x801E).setReg 0x1 0x81) (fun t => (t.reg 0x0, t.reg 0xF)) = some (0x02, 0x01) ∧
    seen ((fresh 0x8FFE).setReg 0xF 0x80) (·.reg 0xF) = some 0x01 := by
  decide

/-- ALU-25: masked to zero, whatever the draw. -/
theorem test_rnd : after (step ((fresh 0xC000).setReg 0x0 0x77)) =
    some (((fresh 0xC000).setPc 0x0202).setDraws 1) := by
  have h : freeByte 0 &&& 0#8 = 0#8 := BitVec.and_zero
  show some _ = some _
  congr 1
  show State.setReg _ 0x0 (freeByte 0 &&& 0#8) = _
  rw [h]
  decide

/-! ### Display -/

/-- DSP-1. -/
theorem test_cls :
    seen ((fresh 0x00E0).setFb (Framebuffer.setPixel Framebuffer.blank 31 63 true)) (fun t => (t.fb, t.drawFlag)) =
      some (Framebuffer.blank, true) := by
  decide

/-- DSP-2 (glyph 0), DSP-9 (wrapped), DSP-10 (clipped), DSP-12 (the origin wraps) and DSP-13 (V[x] is read before VF is written). -/
theorem test_drw_pixels :
    seen ((fresh 0xD015).setI 0x050) (fun t => (lit t 0 ++ lit t 1 ++ lit t 4 ++ lit t 5, t.reg 0xF, t.drawFlag)) =
      some ([0, 1, 2, 3, 0, 3, 0, 1, 2, 3], 0, true) ∧
    seen (((sprite 0xD012 0xC0 0xC0).setReg 0x0 62).setReg 0x1 31) (fun t => (lit t 31, lit t 0)) = some ([62, 63], [62, 63]) ∧
    seen (withQuirks (((sprite 0xD012 0xC0 0xC0).setReg 0x0 62).setReg 0x1 31) fun q => { q with clip := true })
      (fun t => (lit t 31, lit t 0)) = some ([62, 63], []) ∧
    seen (withQuirks (((sprite 0xD011 0xC0 0x00).setReg 0x0 0x7F).setReg 0x1 0x20) fun q => { q with clip := true })
      (fun t => lit t 0) = some [63] ∧
    seen ((sprite 0xDF11 0x80 0x00).setReg 0xF 0x08) (fun t => (lit t 0, t.reg 0xF)) = some ([8], 0) := by
  decide

/-- DSP-7's first draw and DSP-21 (a collision needs a 1-bit on a lit pixel), and DSP-14 (the first Dxyn with `dw` stalls). -/
theorem test_drw_collision_and_wait :
    seen ((sprite 0xD011 0x80 0x00).setFb (Framebuffer.setPixel Framebuffer.blank 0 0 true)) (fun t => (lit t 0, t.reg 0xF)) =
      some ([], 1) ∧
    seen ((sprite 0xD011 0x0F 0x00).setFb (Framebuffer.setPixel Framebuffer.blank 0 0 true)) (fun t => (lit t 0, t.reg 0xF)) =
      some ([0, 4, 5, 6, 7], 0) ∧
    seen (withQuirks (sprite 0xD011 0x80 0x00) fun q => { q with dw := true })
      (fun t => (t.pc, t.statusView, lit t 0)) = some (0x0200, 0x0001, []) := by
  decide

/-! ### Keyboard -/

/-- KEY-1, KEY-2. -/
theorem test_skp :
    seen (((fresh 0xE09E).setReg 0x0 5).setKeys (pressing [5])) (·.pc) = some 0x0204 ∧
    seen (((fresh 0xE09E).setReg 0x0 5).setKeys (pressing [4, 6])) (·.pc) = some 0x0202 := by
  decide

/-- KEY-3, KEY-4. -/
theorem test_sknp :
    seen ((fresh 0xE0A1).setReg 0x0 5) (·.pc) = some 0x0204 ∧
    seen (((fresh 0xE0A1).setReg 0x0 5).setKeys (pressing [5])) (·.pc) = some 0x0202 := by
  decide

/-- KEY-7 and KEY-9. -/
theorem test_ldVxK_latches :
    seen ((fresh 0xF30A).setKeys (pressing [0xA, 3, 7])) (fun t => (t.statusView, t.pc)) = some (0x001C, 0x0200) := by
  decide

theorem test_ldVxK_completes :
    seen (((fresh 0xF30A).setLatch (some 3)).setKeys (pressing [7])) (fun t => (t.reg 0x3, t.latch, t.pc)) =
      some (0x03, none, 0x0202) := by
  decide

/-! ### Index register, timers, memory transfer -/

/-- IDX-1. -/
theorem test_ldI : seen (fresh 0xAFFF) (·.i) = some 0x0FFF := by
  decide

/-- TMR-1's last CYCLE and TMR-6's first. -/
theorem test_ldVxDt : seen ((fresh 0xF107).setDt 0x39) (fun t => (t.reg 0x1, t.dt)) = some (0x39, 0x39) := by
  decide

/-- TMR-1's first CYCLE. -/
theorem test_ldDtVx : seen ((fresh 0xF015).setReg 0x0 0x3C) (fun t => (t.dt, t.st)) = some (0x3C, 0x00) := by
  decide

/-- TMR-5. -/
theorem test_ldStVx : seen ((fresh 0xF218).setReg 0x2 0x05) (fun t => (t.st, t.dt)) = some (0x05, 0x00) := by
  decide

/-- IDX-2 and IDX-3. -/
theorem test_addIVx :
    seen ((((fresh 0xF01E).setI 0x0FFF).setReg 0x0 0x01).setReg 0xF 0x55) (fun t => (t.i, t.reg 0xF)) = some (0x1000, 0x01) ∧
    seen ((((fresh 0xF01E).setI 0x0FFE).setReg 0x0 0x01).setReg 0xF 0x55) (fun t => (t.i, t.reg 0xF)) = some (0x0FFF, 0x55) := by
  decide

/-- IDX-4 and IDX-5. -/
theorem test_addIVx_edges :
    seen (((fresh 0xF01E).setI 0xFFFF).setReg 0x0 0x02) (fun t => (t.i, t.reg 0xF)) = some (0x0001, 0x01) ∧
    seen (((fresh 0xFF1E).setI 0x0FF0).setReg 0xF 0x10) (fun t => (t.i, t.reg 0xF)) = some (0x1000, 0x01) := by
  decide

/-- IDX-8 and IDX-9. -/
theorem test_ldFVx :
    seen ((fresh 0xF029).setReg 0x0 0x0A) (·.i) = some 0x0082 ∧ seen ((fresh 0xF029).setReg 0x0 0xFF) (·.i) = some 0x054B := by
  decide

/-- IDX-13: across the top of memory. -/
theorem test_ldBVx :
    seen (((fresh 0xF033).setReg 0x0 0x7B).setI 0x0FFF) (fun t => (t.readByte 0xFFF, t.readByte 0x000, t.readByte 0x001, t.i)) =
      some (1, 2, 3, 0x0FFF) := by
  decide

/-- IDX-15 and IDX-16. -/
theorem test_ldMemVx :
    seen (withQuirks (((((fresh 0xF255).setReg 0x0 1).setReg 0x1 2).setReg 0x2 3).setI 0x300) fun q => { q with meminc := true })
      (fun t => (t.readByte 0x300, t.readByte 0x301, t.readByte 0x302, t.readByte 0x303, t.i)) = some (1, 2, 3, 0, 0x0303) ∧
    seen ((((fresh 0xF055).setReg 0x0 0xAB).setReg 0x1 0xCD).setI 0x300) (fun t => (t.readByte 0x300, t.readByte 0x301, t.i)) =
      some (0xAB, 0x00, 0x0300) := by
  decide

/-- IDX-20: the font, and VF loaded as a plain register. -/
theorem test_ldVxMem :
    seen ((fresh 0xFF65).setI 0x0050) (fun t => (t.v.toList, t.i)) =
      some ([0xF0, 0x90, 0x90, 0x90, 0xF0, 0x20, 0x60, 0x20, 0x20, 0x70, 0xF0, 0x10, 0xF0, 0x80, 0xF0, 0xF0], 0x0050) := by
  decide

/-! ### Host transactions and CONSTRUCT -/

/-- TMR-3, TMR-4 and TMR-7. -/
theorem test_tick :
    seen ((State.reset.setDt 2).setSchedule [.tick]) (fun t => (t.dt, t.st)) = some (1, 0) ∧
    seen (((State.reset.setSt 1).setFault .stackUnderflow).setSchedule [.tick]) (fun t => (t.dt, t.st)) = some (0, 0) := by
  decide

/-- DSP-17 and DSP-18. -/
theorem test_refresh :
    after (step (State.reset.setSchedule [.refresh])) = some State.reset ∧
    seen ((State.reset.setDw .refreshFinished).setSchedule [.refresh]) (·.dwstate) = some .refreshFinished := by
  decide

/-- P4, steps 4 and 7, as READ_STATUS answers them. -/
theorem test_status : (State.reset.setLatch (some 5)).respond .readStatus = .status 0x002C := by
  decide

/-- 10_state.md R37: `dw` is bit 0 and `jumpx` is bit 5 of the QUIRKS view. -/
theorem test_quirks_view :
    (withQuirks State.reset fun _ => ⟨true, false, false, false, false, false⟩).quirksView = 0x01 ∧
    (withQuirks State.reset fun _ => ⟨false, false, false, false, false, true⟩).quirksView = 0x20 := by
  decide

/-- RST-1. -/
theorem test_construct :
    (after (construct resetParams (some [0x12, 0x00]))).map
        (fun t => (t.pc, t.readByte 0x050, t.readByte 0x09F, t.readByte 0x200, t.readByte 0x201, t.readByte 0x202, t.statusView)) =
      some (0x0200, 0xF0, 0x80, 0x12, 0x00, 0x00, 0x0000) := by
  decide

/-- R56: `FONT` is a parameter; another one fills the same 80 places, and no place beside them. -/
theorem test_font_parameter :
    (after (construct { resetParams with font := Vector.replicate 80 0xAA } (some []))).map
        (fun t => (t.readByte 0x04F, t.readByte 0x050, t.readByte 0x09F, t.readByte 0x0A0)) = some (0x00, 0xAA, 0xAA, 0x00) := by
  decide

/-- RST-4: an empty ROM runs through zero words. -/
theorem test_empty_rom : after (step State.reset) = some (State.reset.setPc 0x0202) := by
  decide

/-- RST-2 and RST-3: the last byte of the longest ROM is at 0xFFF, and one byte more does not load. -/
theorem test_rom_full (l : List Byte) (h : l.length = 0xDFF) (b : Byte) :
    (after (construct resetParams (some (l ++ [b])))).map (·.readByte 0xFFF) = some b ∧
    after (construct resetParams (some (l ++ [b, b]))) = none := by
  have hl : (l ++ [b]).length = 0xE00 := by simp [h]
  constructor
  · unfold construct
    simp only [hl]
    have := loadRom_readByte (l ++ [b]) programBase { State.reset with params := resetParams } (by rw [hl]; decide) 0xDFF
      (by rw [hl]; decide)
    simpa [after, romMax, programBase, h, List.getElem_append_right] using this
  · unfold construct
    simp [after, romMax, h]

/-! ### Witnesses: the hypotheses of every statement that has some are met -/

theorem witness_DecodeOfEncodeIsInstr :
    Instr.wellFormed true (.drw 0x1 0x2 0xF) = true ∧ Instr.wellFormed true (.unknown 0x5121) = true ∧
    Instr.wellFormed false (.unknown 0x0123) = true := by
  decide

theorem witness_EncodeOfDecodeIsWord :
    ((0x5120#16).extractLsb' 12 4 = 0x5#4 ∧ (0x5120#16).extractLsb' 0 4 = 0#4) ∧
    ((0x9120#16).extractLsb' 12 4 = 0x9#4 ∧ (0x9120#16).extractLsb' 0 4 = 0#4) := by
  decide

theorem witness_DecodeSelectsTheMatchingRow :
    (∀ w', Instr.ldImm 0xA 0x7F ≠ .unknown w') ∧
    (0x6A7F#16) &&& (opcodeRow true (.ldImm 0xA 0x7F)).2 = (opcodeRow true (.ldImm 0xA 0x7F)).1 :=
  ⟨fun _ h => (nomatch h), by decide⟩

/-- The fetch at 0xFFF takes its second byte from 0x000. -/
def topOfMemory : State := ((State.reset.setPc 0x0FFF).writeByte 0xFFF 0x60).writeByte 0x000 0x42

theorem witness_StepRunsDecodedInstr :
    CycleNext topOfMemory ∧ topOfMemory.fault = .noFault ∧
    decodeBytes topOfMemory.params.skipRegStrict
      [topOfMemory.readByte topOfMemory.pc.toNat, topOfMemory.readByte (topOfMemory.pc.toNat + 1)] =
        .ok (.ldImm 0x0 0x42, []) :=
  ⟨.inl rfl, rfl, rfl⟩

/-- A halted CORE whose next transaction is named CYCLE. -/
def halted : State := ((fresh 0x6001).setFault .stackOverflow).setSchedule [.cycle]

theorem witness_HaltedCycleChangesNothing : CycleNext halted ∧ halted.fault ≠ .noFault :=
  ⟨.inr ⟨[], rfl⟩, by decide⟩

theorem witness_TickCountsDown : ((halted.setDt 1).setSchedule [.tick, .cycle]).schedule = .tick :: [.cycle] := by
  decide

theorem witness_KeysReplacesSnapshot :
    (halted.setSchedule [.keys (pressing [0x0, 0xF])]).schedule = .keys (pressing [0x0, 0xF]) :: [] := by
  decide

theorem witness_RefreshAdvancesWaiting :
    ((State.reset.setDw .waiting).setSchedule [.refresh]).schedule = .refresh :: [] ∧ (State.reset.setDw .waiting).dwstate = .waiting ∧
    (State.reset.setDw .refreshFinished).dwstate ≠ .waiting ∧ State.reset.dwstate ≠ .waiting := by
  decide

theorem witness_ReadsAnswerAndChangeNothing :
    (State.reset.setSchedule [.readFb]).schedule = .readFb :: [] ∧
    (State.reset.setSchedule [.readTimers]).schedule = .readTimers :: [] := by
  decide

theorem witness_StatusViewLayout :
    ((State.reset.setLatch (some 0xF)).setSchedule [.readStatus]).schedule = .readStatus :: [] := by
  decide

theorem witness_ConstructPlacesRom :
    (List.replicate 0xE00 (0xAB : Byte)).length ≤ 0xE00 ∧ 0xDFF < (List.replicate 0xE00 (0xAB : Byte)).length ∧
    ([] : List Byte).length ≤ 0xE00 ∧ 0 < 80 ∧ 79 < 80 :=
  ⟨by rw [List.length_replicate], by rw [List.length_replicate]; decide, by decide, by decide, by decide⟩

/-- Every kind of address that CONSTRUCT leaves zero, at its ends, for a ROM of one byte. -/
theorem witness_ConstructResetValues :
    ([0xAB] : List Byte).length ≤ 0xE00 ∧
    ∀ a ∈ [0x000, 0x04F, 0x0A0, 0x1FF, 0x201, 0xFFF],
      a < 0x1000 ∧ (a < 0x050 ∨ 0x0A0 ≤ a ∧ a < 0x200 ∨ 0x200 + ([0xAB] : List Byte).length ≤ a) := by
  decide

theorem witness_ConstructLoadFailures : 0xE00 < (List.replicate 0xE01 (0x00 : Byte)).length := by
  rw [List.length_replicate]
  decide

theorem witness_ConstructMeetsInv : ∃ t, construct resetParams (some [0x12, 0x00]) = .next t := ⟨_, rfl⟩

theorem witness_RetPopsOrRaisesUnderflow :
    ((fresh 0x00EE).setStack [0x0202]).stack = 0x0202 :: [] ∧ (fresh 0x00EE).stack = [] := by
  decide

/-- Unbounded, one entry below the capacity, and at the capacity. -/
theorem witness_CallPushesOrRaisesOverflow :
    (fresh 0x2300).params.stackDepth ≠ some (fresh 0x2300).stack.length ∧
    (withDepth (fresh 0x2300) 1).params.stackDepth ≠ some (withDepth (fresh 0x2300) 1).stack.length ∧
    (withDepth ((fresh 0x2300).setStack [0x0400]) 1).params.stackDepth =
      some (withDepth ((fresh 0x2300).setStack [0x0400]) 1).stack.length ∧
    (withDepth (fresh 0x2300) 1).params.Sane ∧ (withDepth (fresh 0x2300) 1).stack = [] := by
  decide

theorem witness_UnknownIsNoOp :
    CycleNext (fresh 0x5121) ∧ (fresh 0x5121).fault = .noFault ∧ (fresh 0x5121).currentInstr = .unknown 0x5121 :=
  ⟨.inl rfl, by decide, by decide⟩

/-- The shifts' source is V[y] with `shiftx` clear and V[x] with it set. -/
theorem witness_ShiftsGiveBitShiftedOut :
    let s := ((fresh 0x8016).setReg 0x0 0xFF).setReg 0x1 0x81
    0x81 = (if s.params.quirks.shiftx then (s.reg 0x0).toNat else (s.reg 0x1).toNat) ∧
    let t := withQuirks s fun q => { q with shiftx := true }
    0xFF = (if t.params.quirks.shiftx then (t.reg 0x0).toNat else (t.reg 0x1).toNat) := by
  decide

/-- A sprite with `dw` set. -/
def waitingSprite : State := withQuirks (sprite 0xD011 0x80 0x00) fun q => { q with dw := true }

theorem witness_DrawIsPixelwiseXor : DrawReady (sprite 0xD011 0x80 0x00) ∧ DrawReady (waitingSprite.setDw .refreshFinished) :=
  ⟨.inl (by decide), .inr (by decide)⟩

theorem witness_DrawWaitTransitions :
    (waitingSprite.params.quirks.dw = true ∧ waitingSprite.dwstate = .free) ∧
    ((waitingSprite.setDw .waiting).params.quirks.dw = true ∧ (waitingSprite.setDw .waiting).dwstate = .waiting) ∧
    ((waitingSprite.setDw .refreshFinished).params.quirks.dw = true ∧
      (waitingSprite.setDw .refreshFinished).dwstate = .refreshFinished) ∧
    (sprite 0xD011 0x80 0x00).params.quirks.dw = false ∧ (waitingSprite.setDw .refreshFinished).dwstate ≠ .waiting := by
  decide

theorem witness_DrawTwiceRestores :
    (0x0#4 ≠ 0xF#4 ∧ 0x1#4 ≠ 0xF#4) ∧ (sprite 0xD011 0x80 0x00).params.quirks.dw = false ∧
    exec (.drw 0x0 0x1 0x1) (sprite 0xD011 0x80 0x00) = .next ((sprite 0xD011 0x80 0x00).blit 0x0 0x1 0x1) ∧
    exec (.drw 0x0 0x1 0x1) ((sprite 0xD011 0x80 0x00).blit 0x0 0x1 0x1) =
      .next (((sprite 0xD011 0x80 0x00).blit 0x0 0x1 0x1).blit 0x0 0x1 0x1) :=
  ⟨by decide, by decide, rfl, rfl⟩

theorem witness_DrawWaitEndsAfterRefresh :
    let s := waitingSprite.setSchedule [.cycle, .refresh, .cycle]
    s.fault = .noFault ∧ s.params.quirks.dw = true ∧ s.dwstate ≠ .refreshFinished ∧ s.currentInstr = .drw 0x0 0x1 0x1 ∧
    s.schedule = .cycle :: .refresh :: .cycle :: [] := by
  decide

/-- V[x] at 0xF, the largest key code, and at 0x10, the first value that is none. -/
theorem witness_KeySkips :
    let s := (fresh 0xE09E).setReg 0x0 0x0F
    0 = (if (s.reg 0x0).toNat < 16 then s.draws else s.draws + 1) ∧
    let t := (fresh 0xE09E).setReg 0x0 0x10
    1 = (if (t.reg 0x0).toNat < 16 then t.draws else t.draws + 1) := by
  decide

/-- A key wait at 0x200 with the listed keys pressed and a latch. -/
def keyWait (l : List Nibble) (latch : Option Nibble) : State := ((fresh 0xF30A).setKeys (pressing l)).setLatch latch

theorem witness_KeyWaitCases :
    ((keyWait [] none).latch = none ∧ ∀ k, (keyWait [] none).keyDown k = false) ∧
    ((keyWait [0x3, 0xF] none).latch = none ∧ (keyWait [0x3, 0xF] none).keyDown 0x3 = true ∧
      ∀ j, j < 0x3#4 → (keyWait [0x3, 0xF] none).keyDown j = false) ∧
    ((keyWait [0xF] (some 0xF)).latch = some 0xF ∧ (keyWait [0xF] (some 0xF)).keyDown 0xF = true) ∧
    ((keyWait [0x7] (some 0x0)).latch = some 0x0 ∧ (keyWait [0x7] (some 0x0)).keyDown 0x0 = false) := by
  decide

theorem witness_KeyWaitEndsAfterPressAndRelease :
    let s := (fresh 0xF30A).setSchedule [.keys (pressing [0x5, 0x9]), .cycle, .keys (pressing [0x9]), .cycle]
    s.fault = .noFault ∧ s.latch = none ∧ s.currentInstr = .ldVxK 0x3 ∧
    (pressing [0x5, 0x9])[(0x5#4).toNat] = true ∧ (∀ j : Nibble, j < 0x5#4 → (pressing [0x5, 0x9])[j.toNat]'(j.isLt) = false) ∧
    (pressing [0x9])[(0x5#4).toNat] = false ∧
    s.schedule = .keys (pressing [0x5, 0x9]) :: .cycle :: .keys (pressing [0x9]) :: .cycle :: [] := by
  decide

/-- The addresses just outside three bytes stored from 0xFFE on, which wrap to 0x000. -/
theorem witness_LdBStoresDecimalDigits :
    ∀ a ∈ [0xFFD, 0x001], ∀ k < 3, a % 0x1000 ≠ ((0x0FFE#16).toNat + k) % 0x1000 := by
  decide

/-- The addresses just outside sixteen bytes stored from 0xFF8 on, and the first and the last register stored. -/
theorem witness_LdMemStoresRegisters :
    (∀ a ∈ [0xFF7, 0x008], ∀ k ≤ (0xF#4).toNat, a % 0x1000 ≠ ((0x0FF8#16).toNat + k) % 0x1000) ∧
    0x0#4 ≤ 0xF#4 ∧ 0xF#4 ≤ 0xF#4 := by
  decide

theorem witness_EveryInstrKeepsItsFrame :
    (∃ t, exec (.ldMemVx 0x2) (fresh 0xF255) = .next t) ∧ Part.framebuffer ∉ mayChange (.ldMemVx 0x2) ∧
    ¬ mayWrite (.ldVxMem 0x2) 0x3 :=
  ⟨⟨_, rfl⟩, by decide, by show ¬ (0x3#4 ≤ 0x2#4); decide⟩

theorem witness_OnlyStackInstrsRaiseFaults :
    exec .ret (fresh 0x00EE) = .next ((fresh 0x00EE).setFault .stackUnderflow) ∧
    exec (.call 0x300) (withDepth ((fresh 0x2300).setStack [0x0400]) 1) =
      .next ((withDepth ((fresh 0x2300).setStack [0x0400]) 1).setFault .stackOverflow) ∧
    exec (.jp 0x300) (fresh 0x1300) = .next ((fresh 0x1300).setPc 0x0300) :=
  ⟨rfl, rfl, rfl⟩

theorem witness_DrawFlagTellsScreenWrites :
    CycleNext (fresh 0x00E0) ∧ (fresh 0x00E0).fault = .noFault ∧ (∃ t, step (fresh 0x00E0) = .next t) ∧
    (fresh 0x00E0).currentInstr = .cls ∧ (fresh 0x6001).currentInstr = .ldImm 0x0 0x01 ∧
    (sprite 0xD011 0x80 0x00).currentInstr = .drw 0x0 0x1 0x1 :=
  ⟨.inl rfl, rfl, ⟨_, rfl⟩, by decide, by decide, by decide⟩

theorem witness_FreeValuesOnlyWhereOpen : ∃ t, exec (.rnd 0x0 0x0F) (fresh 0xC00F) = .next t ∧ t.draws = 1 := ⟨_, rfl, rfl⟩

theorem witness_SoundTimerAndDrawFlagUnread :
    exec (.ldVxDt 0x1) (fresh 0xF107) = .next ((fresh 0xF107).setReg 0x1 0x00) ∧
    exec (.ldVxDt 0x1) { fresh 0xF107 with st := 0x7F, drawFlag := true } =
      .next ({ fresh 0xF107 with st := 0x7F, drawFlag := true }.setReg 0x1 0x00) :=
  ⟨rfl, rfl⟩

theorem witness_FaultHaltsForGood :
    halted.fault ≠ .noFault ∧ (∃ t, step halted = .next t) ∧ ∃ t, step (halted.setSchedule [.tick]) = .next t :=
  ⟨by decide, ⟨_, rfl⟩, ⟨_, rfl⟩⟩

theorem witness_ParamsFixedAndScheduleTaken :
    (∃ t, step (fresh 0x6001) = .next t) ∧ ∀ snapshot rest, (fresh 0x6001).schedule ≠ .keys snapshot :: rest :=
  ⟨⟨_, rfl⟩, fun _ _ h => nomatch h⟩

/-- The invariant holds of a state with a full stack, a key latched and a wait for a refresh, and that state steps. -/
def busy : State :=
  ((((withQuirks (withDepth (fresh 0xF30A) 1) fun q => { q with dw := true }).setStack [0x0202]).setLatch (some 0x3)).setDw .waiting)

theorem witness_FetchAndBytesAreBigEndian :
    Instr.wellFormed true (.jp 0x234) = true ∧ Instr.wellFormed true (.unknown 0xFFFF) = true := by
  decide

theorem witness_QuirksViewLayout : ∃ t, construct resetParams (some [0x12, 0x00]) = .next t := ⟨_, rfl⟩

theorem witness_StepKeepsInv : busy.Inv ∧ ∃ t, step busy = .next t := by
  refine ⟨⟨by decide, ?_, ?_, ?_⟩, ⟨_, rfl⟩⟩
  · intro n h
    cases h
    decide
  · intro h
    cases h
  · exact fun _ _ => ⟨0x3, by decide⟩

end Sys2Proof.Tests
end

/-! PROOFS. The encoding (30_encoding.md): the decoder undoes the encoder, the decoded row is the one whose bits match, the fetch is
high byte first, and an unknown word does nothing but the fetch. -/

section

namespace Sys2Proof

/-! ### The decoder undoes the encoder -/

/-- A word of the unknown space of R80 decodes to UNKNOWN: in each class, every other branch of the decoder contradicts the
space's description of that class. -/
theorem decode_of_unknownWord {strict : Bool} {w : Word} (h : WellFormed.unknownWord strict w = true) :
    decode strict w = .unknown w := by
  unfold WellFormed.unknownWord at h
  split at h
  next hc =>
    rw [decode_class0 strict hc]
    simp_all [decodeClass0]
  next hc =>
    rw [decode_class5 strict hc]
    simp_all [Field.n]
  next hc =>
    rw [decode_class9 strict hc]
    simp_all [Field.n]
  next hc =>
    rw [decode_class8 strict hc]
    unfold decodeClass8
    split <;> simp_all [Field.n]
  next hc =>
    rw [decode_classE strict hc, decodeClassE_eq]
    simp_all [Field.kk]
  next hc =>
    rw [decode_classF strict hc, decodeClassF_eq]
    simp_all [Field.kk]
  next => cases h

/-- Decoding the word of a well-formed instruction gives it back: format by format, each field of the word is the operand written
there (R71, R78). -/
theorem decode_encode {strict : Bool} {i : Instr} (h : i.wellFormed strict = true) : decode strict (encode i) = i := by
  cases i with
  | unknown w => exact decode_of_unknownWord h
  | cls | ret => rfl
  | jp nnn | call nnn | ldI nnn | jpV0 nnn => simp [encode, decode, Field.c_addr, Field.nnn_addr]
  | seImm x kk | sneImm x kk | ldImm x kk | addImm x kk | rnd x kk =>
    simp [encode, decode, Field.c_byte, Field.x_byte, Field.kk_byte]
  | seReg x y | sneReg x y | drw x y n =>
    simp [encode, decode, Field.c_nibble, Field.x_nibble, Field.y_nibble, Field.n_nibble]
  | ldReg x y | orReg x y | andReg x y | xorReg x y | addReg x y | subReg x y | shrReg x y | subnReg x y | shlReg x y =>
    rw [encode, decode_class8 strict (Field.c_nibble ..)]
    simp [decodeClass8, Field.x_nibble, Field.y_nibble, Field.n_nibble]
  | skp x | sknp x =>
    rw [encode, decode_classE strict (Field.c_byte ..)]
    simp [decodeClassE, Field.x_byte, Field.kk_byte]
  | ldVxDt x | ldVxK x | ldDtVx x | ldStVx x | addIVx x | ldFVx x | ldBVx x | ldMemVx x | ldVxMem x =>
    rw [encode, decode_classF strict (Field.c_byte ..)]
    simp [decodeClassF, Field.x_byte, Field.kk_byte]

/-! ### The row of the opcode map that a word selects (R78) -/

/-- `w` selects the row of `i`: `w AND mask = match`. -/
def MatchesRow (strict : Bool) (w : Word) (i : Instr) : Prop := w &&& (opcodeRow strict i).2 = (opcodeRow strict i).1

open Laws.FixedBits (mask_class mask_nibble mask_byte)

section Masks
variable {w m : Word}

theorem Field.c_of_mask_class (h : w &&& 0xF000#16 = m) : Field.c w = Field.c m := by
  rw [← h, mask_class, Field.c_addr]

theorem Field.c_of_mask_nibble (h : w &&& 0xF00F#16 = m) : Field.c w = Field.c m := by
  rw [← h, mask_nibble, Field.c_nibble]

theorem Field.n_of_mask_nibble (h : w &&& 0xF00F#16 = m) : Field.n w = Field.n m := by
  rw [← h, mask_nibble, Field.n_nibble]

theorem Field.c_of_mask_byte (h : w &&& 0xF0FF#16 = m) : Field.c w = Field.c m := by
  rw [← h, mask_byte, Field.c_byte]

theorem Field.kk_of_mask_byte (h : w &&& 0xF0FF#16 = m) : Field.kk w = Field.kk m := by
  rw [← h, mask_byte, Field.kk_byte]

end Masks

/-- Only the whole word of its row matches a mask of all ones. -/
theorem eq_of_mask_all {w m : Word} (h : w &&& 0xFFFF#16 = m) : w = m := by
  rw [← h]
  exact BitVec.and_allOnes.symm

theorem matchesRow_unknown (strict : Bool) (w w' : Word) : MatchesRow strict w (.unknown w') := BitVec.and_zero

/-- A word of class `k` matches a row of that class that fixes nothing else. -/
theorem mask_class_of {w : Word} {k : Nibble} (hc : Field.c w = k) : w &&& 0xF000#16 = k ++ 0#12 :=
  hc ▸ mask_class w

/-- The rows 5xy0 and 9xy0 fix the low nibble exactly when `SKIP_REG_STRICT` is true (R81). -/
theorem mask_skipReg_of {strict : Bool} {w : Word} {k : Nibble} (hc : Field.c w = k) (hn : Field.n w = 0#4 ∨ strict = false) :
    w &&& (if strict then 0xF00F#16 else 0xF000#16) = k ++ 0#12 := by
  cases strict with
  | false => exact mask_class_of hc
  | true =>
    have hn : Field.n w = 0#4 := by simpa using hn
    have zeros : ∀ k : Nibble, k ++ 0#4 ++ 0#4 ++ 0#4 = k ++ 0#12 := by decide
    exact (mask_nibble w).trans (by rw [hn, hc, zeros])

theorem decodeClass0_matchesRow (strict : Bool) (w : Word) : MatchesRow strict w (decodeClass0 w) := by
  unfold decodeClass0
  split
  next h => exact BitVec.and_allOnes.trans h
  next =>
    split
    next h => exact BitVec.and_allOnes.trans h
    next => exact matchesRow_unknown strict w w

/-- In class 0x8 a decoded row fixes the class and the nibble `n` to those of the word. -/
theorem decodeClass8_matchesRow (strict : Bool) {w : Word} (hc : Field.c w = 0x8#4) : MatchesRow strict w (decodeClass8 w) := by
  have hm : w &&& 0xF00F#16 = 0x8#4 ++ 0#4 ++ 0#4 ++ Field.n w := hc ▸ mask_nibble w
  unfold decodeClass8
  split
  case h_10 => exact matchesRow_unknown strict w w
  all_goals
    next hn => exact hm.trans (by rw [hn]; rfl)

/-- In class 0xE a decoded row fixes the class and the byte `kk` to those of the word. -/
theorem decodeClassE_matchesRow (strict : Bool) {w : Word} (hc : Field.c w = 0xE#4) : MatchesRow strict w (decodeClassE w) := by
  have hm : w &&& 0xF0FF#16 = 0xE#4 ++ 0#4 ++ Field.kk w := hc ▸ mask_byte w
  unfold decodeClassE
  split
  case h_3 => exact matchesRow_unknown strict w w
  all_goals
    next hk => exact hm.trans (by rw [hk]; rfl)

/-- In class 0xF a decoded row fixes the class and the byte `kk` to those of the word. -/
theorem decodeClassF_matchesRow (strict : Bool) {w : Word} (hc : Field.c w = 0xF#4) : MatchesRow strict w (decodeClassF w) := by
  have hm : w &&& 0xF0FF#16 = 0xF#4 ++ 0#4 ++ Field.kk w := hc ▸ mask_byte w
  unfold decodeClassF
  split
  case h_10 => exact matchesRow_unknown strict w w
  all_goals
    next hk => exact hm.trans (by rw [hk]; rfl)

/-- A word matches the row of what it decodes to, class by class. -/
theorem decode_matchesRow (strict : Bool) (w : Word) : MatchesRow strict w (decode strict w) := by
  rcases nibble_cases (Field.c w) with
    h | h | h | h | h | h | h | h | h | h | h | h | h | h | h | h
  · rw [decode_class0 strict h]; exact decodeClass0_matchesRow strict w
  · rw [decode_class1 strict h]; exact mask_class_of h
  · rw [decode_class2 strict h]; exact mask_class_of h
  · rw [decode_class3 strict h]; exact mask_class_of h
  · rw [decode_class4 strict h]; exact mask_class_of h
  · rw [decode_class5 strict h]
    split
    next hn => exact mask_skipReg_of h hn
    next => exact matchesRow_unknown strict w w
  · rw [decode_class6 strict h]; exact mask_class_of h
  · rw [decode_class7 strict h]; exact mask_class_of h
  · rw [decode_class8 strict h]; exact decodeClass8_matchesRow strict h
  · rw [decode_class9 strict h]
    split
    next hn => exact mask_skipReg_of h hn
    next => exact matchesRow_unknown strict w w
  · rw [decode_classA strict h]; exact mask_class_of h
  · rw [decode_classB strict h]; exact mask_class_of h
  · rw [decode_classC strict h]; exact mask_class_of h
  · rw [decode_classD strict h]; exact mask_class_of h
  · rw [decode_classE strict h]; exact decodeClassE_matchesRow strict h
  · rw [decode_classF strict h]; exact decodeClassF_matchesRow strict h

/-- An instruction row that a word matches is the row of what it decodes to: the mask pins the fields the decoder looks at. -/
theorem opcodeRow_decode_of_matchesRow {strict : Bool} {w : Word} {i : Instr} (hi : ∀ w', i ≠ .unknown w')
    (h : MatchesRow strict w i) : opcodeRow strict (decode strict w) = opcodeRow strict i := by
  cases i <;> simp only [MatchesRow, opcodeRow] at h
  case unknown w' => exact absurd rfl (hi w')
  case cls | ret => rw [eq_of_mask_all h]; rfl
  case jp | call | seImm | sneImm | ldImm | addImm | ldI | jpV0 | rnd | drw => rw [decode, Field.c_of_mask_class h]; rfl
  case seReg =>
    cases strict with
    | false => rw [decode_class5 false (Field.c_of_mask_class h), if_pos (.inr rfl)]; rfl
    | true => rw [decode_class5 true (Field.c_of_mask_nibble h), if_pos (.inl (Field.n_of_mask_nibble h))]; rfl
  case sneReg =>
    cases strict with
    | false => rw [decode_class9 false (Field.c_of_mask_class h), if_pos (.inr rfl)]; rfl
    | true => rw [decode_class9 true (Field.c_of_mask_nibble h), if_pos (.inl (Field.n_of_mask_nibble h))]; rfl
  case ldReg | orReg | andReg | xorReg | addReg | subReg | shrReg | subnReg | shlReg =>
    rw [decode_class8 strict (Field.c_of_mask_nibble h), decodeClass8, Field.n_of_mask_nibble h]; rfl
  case skp | sknp =>
    rw [decode_classE strict (Field.c_of_mask_byte h), decodeClassE, Field.kk_of_mask_byte h]; rfl
  case ldVxDt | ldVxK | ldDtVx | ldStVx | addIVx | ldFVx | ldBVx | ldMemVx | ldVxMem =>
    rw [decode_classF strict (Field.c_of_mask_byte h), decodeClassF, Field.kk_of_mask_byte h]; rfl

/-- Settles O4: the decoded row matches class by class, and any other row that matches pins the same fields. -/
theorem decodeSelectsTheMatchingRow : Obligations.DecodeSelectsTheMatchingRow :=
  fun strict w => ⟨decode_matchesRow strict w, fun _ hi h => opcodeRow_decode_of_matchesRow hi h⟩

/-- Settles O56: the fetch and the bytes of an instruction are laid out as the definitions say, and the round trip through bytes
is the one through words. -/
theorem fetchAndBytesAreBigEndian : Obligations.FetchAndBytesAreBigEndian := by
  refine ⟨fun s => rfl, fun strict i rest => ⟨rfl, fun h => ?_⟩⟩
  rw [decodeBytes_encodeBytes, decode_encode h]

end Sys2Proof

namespace Sys2Proof.Machine

open Sys2Proof.Claims

/-! ### A CYCLE at an unknown word -/

/-- When a CYCLE is next, the step is that CYCLE, taken off the schedule. -/
theorem step_of_cycleNext {s : State} (h : CycleNext s) : step s = cycle (s.setSchedule s.schedule.tail) := by
  refine step_cycle ?_
  rcases h with hs | ⟨rest, hs⟩ <;> simp [hs]

/-- When a CYCLE is next and no fault is recorded, the step runs the instruction at PC on the fetched state (R73). -/
theorem step_of_cycleNext_running {s : State} (h : CycleNext s) (hf : s.fault = .noFault) :
    step s = exec s.currentInstr (s.setSchedule s.schedule.tail).fetched := by
  rw [step_of_cycleNext h, cycle_running (by simpa using hf), State.setSchedule_currentInstr]

/-- UNKNOWN is a no-op on the state the fetch leaves (R79). -/
theorem exec_unknown (w : Word) (s : State) : exec (.unknown w) s = .next s := rfl

/-- Taking the CYCLE off the schedule and fetching changes PC, the draw flag and the schedule only (R73, R75). -/
theorem kept_fetched_setSchedule (s : State) (l : List Transaction) :
    Kept [.pc, .drawFlag, .schedule] s (s.setSchedule l).fetched := by
  intro p hp
  cases p with
  | pc | drawFlag | schedule => simp at hp
  | memory => exact fun _ => rfl
  | index | stack | delay | sound | framebuffer | keys | latch | dwstate | fault | params | draws => rfl

/-- Settles O25: at an unknown word the step is the fetch and nothing more. -/
theorem unknownIsNoOp : Obligations.UnknownIsNoOp := by
  refine ⟨exec_unknown, fun s w hcycle hfault hinstr => ?_⟩
  have hstep : step s = .next (s.setSchedule s.schedule.tail).fetched := by
    rw [step_of_cycleNext_running hcycle hfault, hinstr, exec_unknown]
  exact ⟨_, hstep, rfl, rfl, rfl, fun _ _ => rfl, kept_fetched_setSchedule s _⟩

end Sys2Proof.Machine

end

/-! PROOFS. Control transfer and skips (40_flow.md): each of them sets PC and nothing else. -/

section

namespace Sys2Proof.Machine

open Sys2Proof.Claims

/-! ### What a control transfer leaves unchanged -/

/-- A jump or a skip writes no general register. -/
theorem regsKept_setPc (s : State) (w : Word) : RegsKept [] s (s.setPc w) := fun r _ => State.setPc_reg s w r

/-- A jump or a skip changes no piece of state but PC. -/
theorem kept_setPc (s : State) (w : Word) : Kept [.pc] s (s.setPc w) := by
  intro p hp
  cases p with
  | pc => simp at hp
  | memory => exact fun _ => rfl
  | index | stack | delay | sound | framebuffer | keys | latch | dwstate | fault | drawFlag | params | draws | schedule => rfl

/-! ### Jumps and skips as settings of PC -/

/-- A zero-extended address keeps its value (30_encoding.md R72). -/
theorem zext16_toNat (nnn : Addr) : (zext16 nnn).toNat = nnn.toNat := BitVec.toNat_setWidth_of_le (by decide)

theorem exec_jp (nnn : Addr) (s : State) : exec (.jp nnn) s = .next (s.setPc (zext16 nnn)) := rfl

section Skips
variable (s : State) (a b : Byte)

/-- A skip on equality advances PC exactly when the bytes are equal (R105, R107). -/
theorem State.skipIf_beq : s.skipIf (a == b) = s.setPc (if a = b then s.pc + 2 else s.pc) := by
  simp [State.skipIf_eq]

/-- A skip on inequality advances PC exactly when the bytes differ (R106, R108). -/
theorem State.skipIf_bne : s.skipIf (a != b) = s.setPc (if a = b then s.pc else s.pc + 2) := by
  simp [State.skipIf_eq]

end Skips

theorem exec_seImm (x : Nibble) (kk : Byte) (s : State) :
    exec (.seImm x kk) s = .next (s.setPc (if s.reg x = kk then s.pc + 2 else s.pc)) :=
  congrArg _ (s.skipIf_beq ..)

theorem exec_sneImm (x : Nibble) (kk : Byte) (s : State) :
    exec (.sneImm x kk) s = .next (s.setPc (if s.reg x = kk then s.pc else s.pc + 2)) :=
  congrArg _ (s.skipIf_bne ..)

theorem exec_seReg (x y : Nibble) (s : State) :
    exec (.seReg x y) s = .next (s.setPc (if s.reg x = s.reg y then s.pc + 2 else s.pc)) :=
  congrArg _ (s.skipIf_beq ..)

theorem exec_sneReg (x y : Nibble) (s : State) :
    exec (.sneReg x y) s = .next (s.setPc (if s.reg x = s.reg y then s.pc else s.pc + 2)) :=
  congrArg _ (s.skipIf_bne ..)

/-- An instruction that answers the state with PC set to `w` meets every statement of the form "PC is `w`, all else is kept". -/
theorem setsPcOnly_of_exec {i : Instr} {s : State} {w : Word} (h : exec i s = .next (s.setPc w)) :
    ∃ t, exec i s = .next t ∧ t.pc = w ∧ RegsKept [] s t ∧ Kept [.pc] s t :=
  ⟨_, h, State.setPc_pc s w, regsKept_setPc s w, kept_setPc s w⟩

/-! ### Which words are skips on two registers (30_encoding.md R81) -/

section RegisterSkipWords
variable (strict : Bool) (x y n : Nibble)

theorem decode_5xyn : decode strict (0x5#4 ++ x ++ y ++ n) =
    if n = 0 ∨ strict = false then .seReg x y else .unknown (0x5#4 ++ x ++ y ++ n) := by
  rw [decode_class5 strict (Field.c_nibble ..), Field.n_nibble, Field.x_nibble, Field.y_nibble]
  rfl

theorem decode_9xyn : decode strict (0x9#4 ++ x ++ y ++ n) =
    if n = 0 ∨ strict = false then .sneReg x y else .unknown (0x9#4 ++ x ++ y ++ n) := by
  rw [decode_class9 strict (Field.c_nibble ..), Field.n_nibble, Field.x_nibble, Field.y_nibble]
  rfl

end RegisterSkipWords

/-! ### The obligations -/

/-- Settles O20: JP answers the state with PC set to the zero-extended address, which keeps its value. -/
theorem jpSetsPc : Obligations.JpSetsPc := by
  intro nnn s
  obtain ⟨t, hexec, hpc, hregs, hkept⟩ := setsPcOnly_of_exec (exec_jp nnn s)
  exact ⟨t, hexec, by rw [hpc, zext16_toNat], hregs, hkept⟩

/-- Settles O23: both immediate skips set PC, on opposite outcomes of one test, and nothing else. -/
theorem immediateSkips : Obligations.ImmediateSkips := fun x kk s =>
  ⟨setsPcOnly_of_exec (exec_seImm x kk s), setsPcOnly_of_exec (exec_sneImm x kk s)⟩

/-- Settles O24: both register skips set PC and nothing else, and the words of classes 0x5 and 0x9 decode to them as the low nibble
and `SKIP_REG_STRICT` allow. -/
theorem registerSkips : Obligations.RegisterSkips := fun x y s =>
  ⟨setsPcOnly_of_exec (exec_seReg x y s), setsPcOnly_of_exec (exec_sneReg x y s),
    fun strict n => ⟨decode_5xyn strict x y n, decode_9xyn strict x y n⟩⟩

end Sys2Proof.Machine

end

/-! PROOFS. Register arithmetic and shifts (41_alu.md): each of them writes V[x], some then VF, and nothing else. -/

section

namespace Sys2Proof.Machine

open Sys2Proof.Claims

/-! ### What a register write leaves unchanged -/

/-- The general registers are no piece of state of their own: replacing them changes none. -/
theorem kept_withRegs (s : State) (v : Vector Byte 16) : Kept [] s { s with v := v } := by
  intro p _
  cases p with
  | memory => exact fun _ => rfl
  | index | pc | stack | delay | sound | framebuffer | keys | latch | dwstate | fault | drawFlag | params | draws | schedule => rfl

theorem kept_setReg (s : State) (x : Nibble) (b : Byte) : Kept [] s (s.setReg x b) := kept_withRegs s _

theorem regsKept_setReg (s : State) (x : Nibble) (b : Byte) : RegsKept [x] s (s.setReg x b) := fun _ hq =>
  State.setReg_reg_ne s b (List.ne_of_not_mem_cons hq)

theorem kept_setRegAndFlag (s : State) (x : Nibble) (r f : Byte) : Kept [] s (s.setRegAndFlag x r f) := kept_withRegs s _

theorem regsKept_setRegAndFlag (s : State) (x : Nibble) (r f : Byte) : RegsKept [x, 0xF] s (s.setRegAndFlag x r f) := by
  intro q hq
  have hx : q ≠ x := List.ne_of_not_mem_cons hq
  have hvf : q ≠ vf := fun h => hq (by simp [h, vf])
  rw [State.setRegAndFlag_reg, if_neg hvf, if_neg hx]

/-- A result and a flag written in the order of R134 are what a statement of that form asks for, x = F included. -/
theorem resultAndFlag_setRegAndFlag (s : State) (x : Nibble) (r f : Byte) :
    ResultAndFlag s (s.setRegAndFlag x r f) x r.toNat f.toNat := by
  refine ⟨?_, congrArg BitVec.toNat ?_, regsKept_setRegAndFlag s x r f, kept_setRegAndFlag s x r f⟩
  · rw [State.setRegAndFlag_reg, if_pos rfl, ← apply_ite BitVec.toNat]
    rfl
  · rw [State.setRegAndFlag_reg]
    rfl

/-! ### The values of the flags as numbers -/

theorem flagByte_toNat (c : Bool) : (flagByte c).toNat = c.toNat := by cases c <;> rfl

/-- The carry is set exactly when the exact sum does not fit a byte (R127). -/
theorem carryFlag_toNat (a b : Byte) : (carryFlag a b).toNat = if 255 < a.toNat + b.toNat then 1 else 0 := by
  rw [carryFlag, flagByte_toNat, Bool.toNat, Bool.cond_decide]

/-- The flag of a subtraction is clear exactly on a borrow (R128). -/
theorem notBorrowFlag_toNat (a b : Byte) : (notBorrowFlag a b).toNat = if a.toNat < b.toNat then 0 else 1 := by
  rw [notBorrowFlag, flagByte_toNat]
  by_cases h : a.toNat < b.toNat <;> simp [h]

theorem lowBitFlag_toNat (b : Byte) : (lowBitFlag b).toNat = b.toNat % 2 := by
  rw [lowBitFlag, flagByte_toNat, BitVec.getLsbD, Nat.toNat_testBit]
  simp

/-- Bit 7 of a byte is its quotient by 128, which is at most 1. -/
theorem highBitFlag_toNat (b : Byte) : (highBitFlag b).toNat = b.toNat / 128 := by
  have hlt : b.toNat < 256 := b.isLt
  rw [highBitFlag, flagByte_toNat, BitVec.getLsbD, Nat.toNat_testBit]
  omega

/-! ### The results as numbers -/

/-- A byte subtraction is the difference mod 256. -/
theorem sub_toNat (a b : Byte) : (a - b).toNat = (a.toNat + 256 - b.toNat) % 256 := by
  have hlt : b.toNat < 256 := b.isLt
  rw [BitVec.toNat_sub]
  omega

theorem shiftRight_one_toNat (b : Byte) : (b >>> 1).toNat = b.toNat / 2 := by
  rw [BitVec.toNat_ushiftRight, Nat.shiftRight_one]

theorem shiftLeft_one_toNat (b : Byte) : (b <<< 1).toNat = b.toNat * 2 % 256 := by
  rw [BitVec.toNat_shiftLeft, Nat.shiftLeft_eq]

/-- The source of a shift is V[x] with `shiftx` and V[y] without (R129, R131). -/
theorem State.shiftSource_toNat (s : State) (x y : Nibble) :
    (s.shiftSource x y).toNat = if s.params.quirks.shiftx then (s.reg x).toNat else (s.reg y).toNat := by
  rw [State.shiftSource, apply_ite BitVec.toNat]

/-! ### Answers that write V[x], or V[x] and VF -/

/-- An instruction that answers the state with V[x] set to `b` meets every statement of the form "V[x] is `b`, all else is kept". -/
theorem writesRegOnly_of_exec {i : Instr} {s : State} {x : Nibble} {b : Byte} (h : exec i s = .next (s.setReg x b)) :
    ∃ t, exec i s = .next t ∧ t.reg x = b ∧ RegsKept [x] s t ∧ Kept [] s t :=
  ⟨_, h, State.setReg_reg_same s x b, regsKept_setReg s x b, kept_setReg s x b⟩

/-- An instruction that answers the state with V[x] and then VF written leaves that result and that flag. -/
theorem resultAndFlag_of_exec {i : Instr} {s : State} {x : Nibble} {r f : Byte} {res flag : Nat}
    (h : exec i s = .next (s.setRegAndFlag x r f)) (hres : r.toNat = res) (hflag : f.toNat = flag) :
    ∃ t, exec i s = .next t ∧ ResultAndFlag s t x res flag :=
  ⟨_, h, hres ▸ hflag ▸ resultAndFlag_setRegAndFlag s x r f⟩

section Answers
variable (x y : Nibble) (kk : Byte) (s : State)

theorem exec_ldImm : exec (.ldImm x kk) s = .next (s.setReg x kk) := rfl

theorem exec_ldReg : exec (.ldReg x y) s = .next (s.setReg x (s.reg y)) := rfl

theorem exec_addImm : exec (.addImm x kk) s = .next (s.setReg x (s.reg x + kk)) := rfl

theorem exec_addReg : exec (.addReg x y) s =
    .next (s.setRegAndFlag x (s.reg x + s.reg y) (carryFlag (s.reg x) (s.reg y))) := rfl

theorem exec_subReg : exec (.subReg x y) s =
    .next (s.setRegAndFlag x (s.reg x - s.reg y) (notBorrowFlag (s.reg x) (s.reg y))) := rfl

theorem exec_subnReg : exec (.subnReg x y) s =
    .next (s.setRegAndFlag x (s.reg y - s.reg x) (notBorrowFlag (s.reg y) (s.reg x))) := rfl

theorem exec_shrReg : exec (.shrReg x y) s =
    .next (s.setRegAndFlag x (s.shiftSource x y >>> 1) (lowBitFlag (s.shiftSource x y))) := rfl

theorem exec_shlReg : exec (.shlReg x y) s =
    .next (s.setRegAndFlag x (s.shiftSource x y <<< 1) (highBitFlag (s.shiftSource x y))) := rfl

end Answers

/-! ### The obligations -/

/-- Settles O26: both loads answer one register write, of kk and of the old V[y]. -/
theorem registerLoads : Obligations.RegisterLoads := fun x y kk s =>
  ⟨writesRegOnly_of_exec (exec_ldImm x kk s), writesRegOnly_of_exec (exec_ldReg x y s)⟩

/-- Settles O27: the answer is one register write, of the byte sum, which is the sum mod 256. -/
theorem addImmWrapsWithoutFlag : Obligations.AddImmWrapsWithoutFlag := by
  intro x kk s
  obtain ⟨t, hexec, hreg, hregs, hkept⟩ := writesRegOnly_of_exec (exec_addImm x kk s)
  exact ⟨t, hexec, by rw [hreg, BitVec.toNat_add], hregs, hkept⟩

/-- Settles O29: the byte sum is the sum mod 256, and the flag is the carry. -/
theorem addRegGivesSumAndCarry : Obligations.AddRegGivesSumAndCarry := fun x y s =>
  resultAndFlag_of_exec (exec_addReg x y s) (BitVec.toNat_add ..) (carryFlag_toNat ..)

/-- Settles O30: SUB and SUBN are one subtraction with its operands in either order. -/
theorem subtractGivesDifferenceAndNotBorrow : Obligations.SubtractGivesDifferenceAndNotBorrow := fun x y s =>
  ⟨resultAndFlag_of_exec (exec_subReg x y s) (sub_toNat ..) (notBorrowFlag_toNat ..),
    resultAndFlag_of_exec (exec_subnReg x y s) (sub_toNat ..) (notBorrowFlag_toNat ..)⟩

/-- Settles O31: both shifts take the byte of value `v` and flag the bit that falls out at their end. -/
theorem shiftsGiveBitShiftedOut : Obligations.ShiftsGiveBitShiftedOut := by
  intro x y s v hv
  obtain rfl : v = (s.shiftSource x y).toNat := hv.trans (s.shiftSource_toNat x y).symm
  exact ⟨resultAndFlag_of_exec (exec_shrReg x y s) (shiftRight_one_toNat _) (lowBitFlag_toNat _),
    resultAndFlag_of_exec (exec_shlReg x y s) (shiftLeft_one_toNat _) (highBitFlag_toNat _)⟩

end Sys2Proof.Machine

end

/-! PROOFS. Clear, refresh and the draw-wait machine (42_display.md): what each of them answers, and the frames of the updates
they are made of. -/

section

namespace Sys2Proof.Machine

open Sys2Proof.Claims

/-! ### Frames of updates made one after another -/

theorem Part.Same.trans {p : Part} {s t u : State} (hst : p.Same s t) (htu : p.Same t u) : p.Same s u := by
  cases p with
  | memory => exact fun a => (htu a).trans (hst a)
  | index | pc | stack | delay | sound | framebuffer | keys | latch | dwstate | fault | drawFlag | params | draws | schedule =>
    exact Eq.trans htu hst

/-- Two changes one after the other change only what one of them changes. -/
theorem Kept.trans {l m : List Part} {s t u : State} (hst : Kept l s t) (htu : Kept m t u) : Kept (l ++ m) s u := fun p hp =>
  Part.Same.trans (hst p fun h => hp (List.mem_append_left m h)) (htu p fun h => hp (List.mem_append_right l h))

theorem kept_setFb (s : State) (f : Framebuffer) : Kept [.framebuffer] s (s.setFb f) := by
  intro p hp
  cases p with
  | framebuffer => simp at hp
  | memory => exact fun _ => rfl
  | index | pc | stack | delay | sound | keys | latch | dwstate | fault | drawFlag | params | draws | schedule => rfl

theorem kept_setDrawFlag (s : State) (b : Bool) : Kept [.drawFlag] s (s.setDrawFlag b) := by
  intro p hp
  cases p with
  | drawFlag => simp at hp
  | memory => exact fun _ => rfl
  | index | pc | stack | delay | sound | framebuffer | keys | latch | dwstate | fault | params | draws | schedule => rfl

theorem kept_setDw (s : State) (d : DwState) : Kept [.dwstate] s (s.setDw d) := by
  intro p hp
  cases p with
  | dwstate => simp at hp
  | memory => exact fun _ => rfl
  | index | pc | stack | delay | sound | framebuffer | keys | latch | fault | drawFlag | params | draws | schedule => rfl

theorem kept_setSchedule (s : State) (l : List Transaction) : Kept [.schedule] s (s.setSchedule l) := by
  intro p hp
  cases p with
  | schedule => simp at hp
  | memory => exact fun _ => rfl
  | index | pc | stack | delay | sound | framebuffer | keys | latch | dwstate | fault | drawFlag | params | draws => rfl

/-! ### The answers of CLS, REFRESH and DRW -/

theorem exec_cls (s : State) : exec .cls s = .next ((s.setFb Framebuffer.blank).setDrawFlag true) := rfl

theorem State.setDw_eq_self {s : State} {d : DwState} (h : s.dwstate = d) : s.setDw d = s := by
  subst h
  rfl

/-- REFRESH is one setting of the draw-wait state, to its old value when it is not WAITING (R164). -/
theorem refresh_eq_setDw (s : State) : refresh s = s.setDw (if s.dwstate = .waiting then .refreshFinished else s.dwstate) := by
  rcases refresh_cases s with ⟨hw, h⟩ | ⟨hw, h⟩
  · rw [h, if_pos hw]
  · rw [h, if_neg hw, State.setDw_eq_self rfl]

/-- A draw writes the framebuffer, VF and the draw flag, so PC is where the fetch left it (R152). -/
theorem State.blit_pc (s : State) (x y n : Nibble) : (s.blit x y n).pc = s.pc := by simp [State.blit_eq]

theorem State.blit_dwstate (s : State) (x y n : Nibble) : (s.blit x y n).dwstate = s.dwstate := by simp [State.blit_eq]

section Drw
variable {s : State} (x y n : Nibble)

/-- With `dw` set and no refresh yet, DRW rewinds PC and waits; from WAITING this keeps the draw-wait state (R161). -/
theorem exec_drw_stalled (hdw : s.params.quirks.dw = true) (hd : s.dwstate ≠ .refreshFinished) :
    exec (.drw x y n) s = .next ((s.setPc (s.pc - 2)).setDw .waiting) := by
  change execDrw x y n s = _
  rw [execDrw, if_pos hdw]
  cases h : s.dwstate with
  | free => rfl
  | waiting => exact congrArg _ (State.setDw_eq_self (s := s.rewind) h).symm
  | refreshFinished => exact absurd h hd

/-- With `dw` set and a refresh come, DRW draws and goes back to FREE (R161). -/
theorem exec_drw_refreshed (hdw : s.params.quirks.dw = true) (hd : s.dwstate = .refreshFinished) :
    exec (.drw x y n) s = .next ((s.blit x y n).setDw .free) := by
  change execDrw x y n s = _
  rw [execDrw, if_pos hdw, hd]

/-- With `dw` clear, DRW draws at once (R162). -/
theorem exec_drw_unguarded (hdw : s.params.quirks.dw = false) : exec (.drw x y n) s = .next (s.blit x y n) := by
  change execDrw x y n s = _
  rw [execDrw, hdw, if_neg Bool.false_ne_true]

end Drw

/-! ### The obligations -/

/-- Settles O33: the answer is the blank framebuffer with the draw flag set, and nothing else written. -/
theorem clsClearsScreen : Obligations.ClsClearsScreen := fun s =>
  ⟨_, exec_cls s, Framebuffer.pixel_blank, rfl, fun _ _ => rfl, Kept.trans (kept_setFb s _) (kept_setDrawFlag _ _)⟩

/-- Settles O10: the step takes the REFRESH off the schedule, and a REFRESH sets the draw-wait state and nothing else. -/
theorem refreshAdvancesWaiting : Obligations.RefreshAdvancesWaiting := by
  intro s rest hs
  have hstep : step s = .next ((s.setDw (if s.dwstate = .waiting then .refreshFinished else s.dwstate)).setSchedule rest) := by
    rw [step_host hs (by decide), hostEffect_refresh, refresh_eq_setDw]
    rfl
  exact ⟨_, hstep, rfl, rfl, fun _ _ => rfl, Kept.trans (kept_setDw s _) (kept_setSchedule _ _)⟩

/-- Settles O35: each row of the table is the answer of DRW or of REFRESH in that case; the draw itself keeps PC and the draw-wait
state. -/
theorem drawWaitTransitions : Obligations.DrawWaitTransitions := by
  intro x y n s
  refine ⟨fun hdw hd => ?stalled, fun hdw hd => ?refreshed, fun hdw => ?unguarded, fun hd => ?waiting, fun hd => ?other⟩
  case stalled =>
    have hexec := exec_drw_stalled x y n hdw (by rcases hd with hd | hd <;> simp [hd])
    exact ⟨_, hexec, rfl, rfl, fun _ _ => rfl, Kept.trans (kept_setPc s _) (kept_setDw _ _)⟩
  case refreshed => exact ⟨_, exec_drw_refreshed x y n hdw hd, rfl, s.blit_pc x y n⟩
  case unguarded => exact ⟨exec_drw_unguarded x y n hdw, s.blit_dwstate x y n⟩
  case waiting => exact congrArg _ ((refresh_eq_setDw s).trans (congrArg s.setDw (if_pos hd)))
  case other => exact congrArg _ ((refresh_eq_setDw s).trans (State.setDw_eq_self (if_neg hd).symm))

end Sys2Proof.Machine

end

/-! PROOFS. The key wait (43_keyboard.md): the answer in each row of its table, and the frame of writing the latch. -/

section

namespace Sys2Proof.Machine

open Sys2Proof.Claims

theorem kept_setLatch (s : State) (l : Option Nibble) : Kept [.latch] s (s.setLatch l) := by
  intro p hp
  cases p with
  | latch => simp at hp
  | memory => exact fun _ => rfl
  | index | pc | stack | delay | sound | framebuffer | keys | dwstate | fault | drawFlag | params | draws | schedule => rfl

/-! ### The answers of LD Vx, K -/

section KeyWait
variable {s : State} {k : Nibble} (x : Nibble)

/-- With no latch and no key, the wait rewinds PC (R174, row 1). -/
theorem exec_ldVxK_idle (hl : s.latch = none) (hk : ∀ k, s.keyDown k = false) :
    exec (.ldVxK x) s = .next (s.setPc (s.pc - 2)) := by
  change execLdVxK x s = _
  simp only [execLdVxK, hl, s.lowestKey_none.2 hk, State.rewind_eq]

/-- With no latch and a key pressed, the wait latches the lowest key and rewinds PC (R174, row 2; R175). -/
theorem exec_ldVxK_pressed (hl : s.latch = none) (hk : s.keyDown k = true) (hlow : ∀ j, j < k → s.keyDown j = false) :
    exec (.ldVxK x) s = .next ((s.setLatch (some k)).setPc (s.pc - 2)) := by
  change execLdVxK x s = _
  simp only [execLdVxK, hl, State.lowestKey_eq hk hlow, State.rewind_eq, State.setLatch_pc]

/-- While the latched key is held, the wait rewinds PC (R174, row 3). -/
theorem exec_ldVxK_held (hl : s.latch = some k) (hk : s.keyDown k = true) :
    exec (.ldVxK x) s = .next (s.setPc (s.pc - 2)) := by
  change execLdVxK x s = _
  simp only [execLdVxK, hl, hk, if_true, State.rewind_eq]

/-- Once the latched key is released, the wait writes its code to V[x] and clears the latch (R174, row 4). -/
theorem exec_ldVxK_released (hl : s.latch = some k) (hk : s.keyDown k = false) :
    exec (.ldVxK x) s = .next ((s.setReg x (k.setWidth 8)).setLatch none) := by
  change execLdVxK x s = _
  simp only [execLdVxK, hl, hk, Bool.false_eq_true, if_false]

/-- A byte made from a key code is that code (R173). -/
theorem keyCode_toNat (k : Nibble) : (k.setWidth 8 : Byte).toNat = k.toNat := BitVec.toNat_setWidth_of_le (by decide)

end KeyWait

/-! ### The obligation -/

/-- Settles O39: each case is the answer of one row of the table; the rows rewind PC, write the latch, or write V[x] and the
latch. -/
theorem keyWaitCases : Obligations.KeyWaitCases := by
  intro x s
  refine ⟨fun hl hk => ?idle, fun k hl hk hlow => ?pressed, fun k hl hk => ?held, fun k hl hk => ?released⟩
  case idle => exact ⟨_, exec_ldVxK_idle x hl hk, rfl, regsKept_setPc s _, kept_setPc s _⟩
  case pressed =>
    exact ⟨_, exec_ldVxK_pressed x hl hk hlow, rfl, rfl, fun _ _ => rfl, Kept.trans (kept_setLatch s _) (kept_setPc _ _)⟩
  case held => exact ⟨_, exec_ldVxK_held x hl hk, rfl, regsKept_setPc s _, kept_setPc s _⟩
  case released =>
    have hreg : (s.setReg x (k.setWidth 8)).reg x = k.setWidth 8 := State.setReg_reg_same s x _
    exact ⟨_, exec_ldVxK_released x hl hk, (congrArg BitVec.toNat hreg).trans (keyCode_toNat k), rfl, regsKept_setReg s x _,
      Kept.trans (kept_setReg s x _) (kept_setLatch _ _)⟩

end Sys2Proof.Machine

end

/-! PROOFS. The index register, the timers and memory transfer (44_index_timer_memory.md): each of them is a setting of I or a
timer, a register write, or a run of stores or loads and an advance of I. -/

section

namespace Sys2Proof.Machine

open Sys2Proof.Claims Sys2Proof.Config

/-! ### What the updates leave unchanged -/

theorem kept_setI (s : State) (w : Word) : Kept [.index] s (s.setI w) := by
  intro p hp
  cases p with
  | index => simp at hp
  | memory => exact fun _ => rfl
  | pc | stack | delay | sound | framebuffer | keys | latch | dwstate | fault | drawFlag | params | draws | schedule => rfl

theorem kept_setDt (s : State) (b : Byte) : Kept [.delay] s (s.setDt b) := by
  intro p hp
  cases p with
  | delay => simp at hp
  | memory => exact fun _ => rfl
  | index | pc | stack | sound | framebuffer | keys | latch | dwstate | fault | drawFlag | params | draws | schedule => rfl

theorem kept_setSt (s : State) (b : Byte) : Kept [.sound] s (s.setSt b) := by
  intro p hp
  cases p with
  | sound => simp at hp
  | memory => exact fun _ => rfl
  | index | pc | stack | delay | framebuffer | keys | latch | dwstate | fault | drawFlag | params | draws | schedule => rfl

theorem kept_withMem (s : State) (m : List Host.Cell) : Kept [.memory] s { s with mem := m } := by
  intro p hp
  cases p with
  | memory => simp at hp
  | index | pc | stack | delay | sound | framebuffer | keys | latch | dwstate | fault | drawFlag | params | draws | schedule => rfl

/-! ### Stores at addresses from a base on -/

theorem State.writeByte_readByte_same (s : State) (a : Nat) (b : Byte) : (s.writeByte a b).readByte a = b := by
  rw [State.writeByte_readByte, if_pos rfl]

theorem State.writeByte_readByte_ne (s : State) {a p : Nat} (b : Byte) (h : p % memSize ≠ a % memSize) :
    (s.writeByte a b).readByte p = s.readByte p := by
  rw [State.writeByte_readByte, if_neg h]

/-- A store less than a whole memory past an address does not reach it: the two masked addresses differ (20_memory.md R51). -/
theorem State.writeByte_readByte_before (s : State) (a : Nat) {j k : Nat} (b : Byte) (hjk : j < k) (hk : k < memSize) :
    (s.writeByte (a + k) b).readByte (a + j) = s.readByte (a + j) :=
  State.writeByte_readByte_ne s b (by simp only [memSize] at hk ⊢; omega)

/-- Three bytes stored at an address and the two after it, as LD B stores its digits (R186). -/
def State.writeThree (s : State) (a : Nat) (b₀ b₁ b₂ : Byte) : State :=
  ((s.writeByte a b₀).writeByte (a + 1) b₁).writeByte (a + 2) b₂

section WriteThree
variable (s : State) (a : Nat) (b₀ b₁ b₂ : Byte)

theorem State.writeThree_readByte_first : (s.writeThree a b₀ b₁ b₂).readByte a = b₀ := calc
  _ = ((s.writeByte a b₀).writeByte (a + 1) b₁).readByte a :=
    State.writeByte_readByte_before _ a (j := 0) b₂ (by decide) (by decide)
  _ = (s.writeByte a b₀).readByte a := State.writeByte_readByte_before _ a (j := 0) b₁ (by decide) (by decide)
  _ = b₀ := s.writeByte_readByte_same a b₀

theorem State.writeThree_readByte_second : (s.writeThree a b₀ b₁ b₂).readByte (a + 1) = b₁ := calc
  _ = ((s.writeByte a b₀).writeByte (a + 1) b₁).readByte (a + 1) :=
    State.writeByte_readByte_before _ a b₂ (by decide) (by decide)
  _ = b₁ := State.writeByte_readByte_same _ (a + 1) b₁

theorem State.writeThree_readByte_third : (s.writeThree a b₀ b₁ b₂).readByte (a + 2) = b₂ :=
  State.writeByte_readByte_same _ (a + 2) b₂

theorem State.writeThree_readByte_ne {p : Nat} (h : ∀ k < 3, p % memSize ≠ (a + k) % memSize) :
    (s.writeThree a b₀ b₁ b₂).readByte p = s.readByte p := calc
  _ = ((s.writeByte a b₀).writeByte (a + 1) b₁).readByte p := State.writeByte_readByte_ne _ b₂ (h 2 (by decide))
  _ = (s.writeByte a b₀).readByte p := State.writeByte_readByte_ne _ b₁ (h 1 (by decide))
  _ = s.readByte p := State.writeByte_readByte_ne s b₀ (h 0 (by decide))

theorem kept_writeThree : Kept [.memory] s (s.writeThree a b₀ b₁ b₂) := kept_withMem s _

end WriteThree

/-! ### The decimal digits as numbers (R186) -/

theorem hundreds_toNat (b : Byte) : (hundreds b).toNat = b.toNat / 100 := by
  have hlt : b.toNat < 256 := b.isLt
  rw [hundreds, BitVec.toNat_ofNat]
  omega

theorem tens_toNat (b : Byte) : (tens b).toNat = b.toNat / 10 % 10 := by
  rw [tens, BitVec.toNat_ofNat]
  omega

theorem units_toNat (b : Byte) : (units b).toNat = b.toNat % 10 := by
  rw [units, BitVec.toNat_ofNat]
  omega

/-! ### Runs of stores and loads (R187, R188) -/

theorem regIndex_of_toNat (r : Nibble) : regIndex r.toNat = r := BitVec.eq_of_toNat_eq (regIndex_toNat r.isLt)

section Transfer
variable (s : State) (k : Nat)

theorem State.storeRegs_i : (s.storeRegs k).i = s.i := by rw [State.storeRegs_eq]

theorem State.storeRegs_params : (s.storeRegs k).params = s.params := by rw [State.storeRegs_eq]

theorem State.storeRegs_reg (r : Nibble) : (s.storeRegs k).reg r = s.reg r := by
  rw [State.storeRegs_eq]
  rfl

theorem kept_storeRegs : Kept [.memory] s (s.storeRegs k) := by
  rw [State.storeRegs_eq]
  exact kept_withMem s _

theorem State.loadRegs_i : (s.loadRegs k).i = s.i := by rw [State.loadRegs_eq]

theorem State.loadRegs_params : (s.loadRegs k).params = s.params := by rw [State.loadRegs_eq]

theorem kept_loadRegs : Kept [] s (s.loadRegs k) := by
  rw [State.loadRegs_eq]
  exact kept_withRegs s _

end Transfer

/-- V0 to V[x] is what a run over x + 1 registers moves, both ends included. -/
theorem toNat_lt_succ_iff_le (r x : Nibble) : r.toNat < x.toNat + 1 ↔ r ≤ x := Nat.lt_succ_iff.trans BitVec.le_def.symm

/-! ### The advance of I -/

section Advance
variable (s : State) (x : Nibble)

/-- I moves past the x + 1 bytes, mod 0x10000, exactly with `meminc`. -/
theorem State.advanceI_i_toNat : (s.advanceI x).i.toNat =
    if s.params.quirks.meminc then (s.i.toNat + x.toNat + 1) % 0x10000 else s.i.toNat := by
  rw [State.advanceI_eq, State.setI_i, apply_ite BitVec.toNat, BitVec.toNat_add, BitVec.toNat_ofNat, Nat.add_mod_mod]
  rfl

theorem State.advanceI_reg (r : Nibble) : (s.advanceI x).reg r = s.reg r := by
  rw [State.advanceI_eq, State.setI_reg]

theorem State.advanceI_readByte (p : Nat) : (s.advanceI x).readByte p = s.readByte p := by
  rw [State.advanceI_eq, State.setI_readByte]

theorem kept_advanceI : Kept [.index] s (s.advanceI x) := by
  rw [State.advanceI_eq]
  exact kept_setI s _

end Advance

/-! ### The answers -/

section IndexAnswers
variable (x : Nibble) (s : State)

theorem exec_ldI (nnn : Addr) : exec (.ldI nnn) s = .next (s.setI (zext16 nnn)) := rfl

theorem exec_ldVxDt : exec (.ldVxDt x) s = .next (s.setReg x s.dt) := rfl

theorem exec_ldDtVx : exec (.ldDtVx x) s = .next (s.setDt (s.reg x)) := rfl

theorem exec_ldStVx : exec (.ldStVx x) s = .next (s.setSt (s.reg x)) := rfl

theorem exec_ldBVx : exec (.ldBVx x) s =
    .next (s.writeThree s.i.toNat (hundreds (s.reg x)) (tens (s.reg x)) (units (s.reg x))) := rfl

theorem exec_ldMemVx : exec (.ldMemVx x) s = .next ((s.storeRegs (x.toNat + 1)).advanceI x) := rfl

theorem exec_ldVxMem : exec (.ldVxMem x) s = .next ((s.loadRegs (x.toNat + 1)).advanceI x) := rfl

end IndexAnswers

/-! ### The obligations -/

/-- Settles O41: the answer sets I to the zero-extended address, which keeps its value. -/
theorem ldISetsIndex : Obligations.LdISetsIndex := fun nnn s =>
  ⟨_, exec_ldI s nnn, zext16_toNat nnn, fun _ _ => rfl, kept_setI s _⟩

/-- Settles O42: each move is one write, of V[x] or of one timer. -/
theorem timerMoves : Obligations.TimerMoves := fun x s =>
  ⟨writesRegOnly_of_exec (exec_ldVxDt x s), ⟨_, exec_ldDtVx x s, rfl, fun _ _ => rfl, kept_setDt s _⟩,
    ⟨_, exec_ldStVx x s, rfl, fun _ _ => rfl, kept_setSt s _⟩⟩

/-- Settles O45: the three digits are stored at three different masked addresses, so each reads back and no other byte changes. -/
theorem ldBStoresDecimalDigits : Obligations.LdBStoresDecimalDigits := by
  intro x s
  refine ⟨_, exec_ldBVx x s, ?hundreds, ?tens, ?units, fun a ha => ?others, fun _ _ => rfl, kept_writeThree s _ _ _ _⟩
  case hundreds => rw [State.writeThree_readByte_first, hundreds_toNat]
  case tens => rw [State.writeThree_readByte_second, tens_toNat]
  case units => rw [State.writeThree_readByte_third, units_toNat]
  case others => exact State.writeThree_readByte_ne s _ _ _ _ ha

/-- Settles O46: x + 1 registers are stored, which changes memory only, and then I is advanced, which changes I only. -/
theorem ldMemStoresRegisters : Obligations.LdMemStoresRegisters := by
  intro x s
  refine ⟨_, exec_ldMemVx x s, fun r hr => ?stored, fun a ha => ?others, ?index, fun r _ => ?regs,
    Kept.trans (kept_storeRegs s _) (kept_advanceI _ x)⟩
  case stored =>
    have hlt : r.toNat < x.toNat + 1 := (toNat_lt_succ_iff_le r x).2 hr
    rw [State.advanceI_readByte, State.storeRegs_readByte s x.isLt hlt, regIndex_of_toNat]
  case others =>
    rw [State.advanceI_readByte]
    exact State.storeRegs_readByte_ne s _ a fun j hj => ha j (Nat.le_of_lt_succ hj)
  case index => rw [State.advanceI_i_toNat, State.storeRegs_i, State.storeRegs_params]
  case regs => rw [State.advanceI_reg, State.storeRegs_reg]

/-- Settles O47: x + 1 registers are loaded, which changes registers only, and then I is advanced, which changes I only. -/
theorem ldRegistersFromMem : Obligations.LdRegistersFromMem := by
  intro x s
  refine ⟨_, exec_ldVxMem x s, fun r => ?loaded, ?index, Kept.trans (kept_loadRegs s _) (kept_advanceI _ x)⟩
  case loaded => simp only [State.advanceI_reg, State.loadRegs_reg s x.isLt, toNat_lt_succ_iff_le]
  case index => rw [State.advanceI_i_toNat, State.loadRegs_i, State.loadRegs_params]

end Sys2Proof.Machine

end

/-! PROOFS. The host's transactions (60_exceptions.md): TICK, KEYS and the reads are each an update of the state with the
transaction taken off the schedule. -/

section

namespace Sys2Proof.Machine

open Sys2Proof.Claims

/-! ### The schedule beside a transaction -/

/-- No transaction reads or writes the schedule, which is the model's own bookkeeping (log entry 3). -/
theorem hostEffect_setSchedule (x : Transaction) (s : State) (rest : List Transaction) :
    hostEffect x (s.setSchedule rest) = (hostEffect x s).setSchedule rest := by
  cases x with
  | refresh =>
    rw [hostEffect_refresh, hostEffect_refresh, refresh_eq_setDw, refresh_eq_setDw]
    rfl
  | cycle | tick | keys snapshot | readFb | readTimers | readStatus => rfl

/-- A scheduled transaction other than CYCLE acts on the state itself and is taken off the schedule. -/
theorem step_host_setSchedule {s : State} {x : Transaction} {rest : List Transaction} (h : s.schedule = x :: rest)
    (hx : x ≠ .cycle) : step s = .next ((hostEffect x s).setSchedule rest) := by
  rw [step_host h hx, hostEffect_setSchedule]

/-! ### The timers and the keys -/

/-- A counter goes down by one and stays at zero, as subtraction of natural numbers does (R210). -/
theorem countDown_toNat (b : Byte) : (countDown b).toNat = b.toNat - 1 := by
  unfold countDown
  split
  next hzero => simp [hzero]
  next hpos =>
    have hone : 1#8 ≤ b := by bv_omega
    exact BitVec.toNat_sub_of_le hone

theorem kept_setKeys (s : State) (k : Vector Bool 16) : Kept [.keys] s (s.setKeys k) := by
  intro p hp
  cases p with
  | keys => simp at hp
  | memory => exact fun _ => rfl
  | index | pc | stack | delay | sound | framebuffer | latch | dwstate | fault | drawFlag | params | draws | schedule => rfl

/-! ### The obligations -/

/-- Settles O8: the step sets each timer to its count-down, and then the schedule to its rest. -/
theorem tickCountsDown : Obligations.TickCountsDown := by
  intro s rest hs
  have hkept : Kept [.delay, .sound] s (hostEffect .tick s) := Kept.trans (kept_setDt s _) (kept_setSt _ _)
  exact ⟨_, step_host_setSchedule hs (by decide), countDown_toNat s.dt, countDown_toNat s.st, rfl, fun _ _ => rfl,
    Kept.trans hkept (kept_setSchedule _ rest)⟩

/-- Settles O9: the step sets the keys to the snapshot, and then the schedule to its rest. -/
theorem keysReplacesSnapshot : Obligations.KeysReplacesSnapshot := by
  intro s snapshot rest hs
  have hkept : Kept [.keys] s (hostEffect (.keys snapshot) s) := kept_setKeys s snapshot
  exact ⟨_, step_host_setSchedule hs (by simp), fun _ => rfl, rfl, fun _ _ => rfl, Kept.trans hkept (kept_setSchedule _ rest)⟩

/-- Settles O11: a read has no effect of its own, so the step sets the schedule to its rest; what it answers is the view itself. -/
theorem readsAnswerAndChangeNothing : Obligations.ReadsAnswerAndChangeNothing := by
  intro s rest
  refine ⟨fun hs => ⟨?readFb, rfl⟩, fun hs => ⟨?readTimers, rfl⟩⟩
  case readFb => exact step_host_setSchedule hs (by decide)
  case readTimers => exact step_host_setSchedule hs (by decide)

end Sys2Proof.Machine

end

/-! PROOFS. The encoding (30_encoding.md), continued: the encoder undoes the decoder, and UNKNOWN is what the unknown space decodes
to. -/

section

namespace Sys2Proof

/-! ### A word from the fields that a decoded instruction keeps -/

section WordOfFields
variable {w : Word} {k : Nibble}

theorem word_of_addr (hc : Field.c w = k) : k ++ Field.nnn w = w := hc ▸ Field.addr_eta w

theorem word_of_byte {kk : Byte} (hc : Field.c w = k) (hk : Field.kk w = kk) : k ++ Field.x w ++ kk = w :=
  hc ▸ hk ▸ Field.byte_eta w

theorem word_of_nibble {n : Nibble} (hc : Field.c w = k) (hn : Field.n w = n) : k ++ Field.x w ++ Field.y w ++ n = w :=
  hc ▸ hn ▸ Field.nibble_eta w

end WordOfFields

/-! ### The encoder undoes the decoder -/

theorem encode_decodeClass0 (w : Word) : encode (decodeClass0 w) = w := by
  unfold decodeClass0
  split
  next h => exact h.symm
  next =>
    split
    next h => exact h.symm
    next => rfl

theorem encode_decodeClass8 {w : Word} (hc : Field.c w = 0x8#4) : encode (decodeClass8 w) = w := by
  unfold decodeClass8
  split
  case h_10 => rfl
  all_goals
    next hn => exact word_of_nibble hc hn

theorem encode_decodeClassE {w : Word} (hc : Field.c w = 0xE#4) : encode (decodeClassE w) = w := by
  unfold decodeClassE
  split
  case h_3 => rfl
  all_goals
    next hk => exact word_of_byte hc hk

theorem encode_decodeClassF {w : Word} (hc : Field.c w = 0xF#4) : encode (decodeClassF w) = w := by
  unfold decodeClassF
  split
  case h_10 => rfl
  all_goals
    next hk => exact word_of_byte hc hk

/-- Decoding drops no bit of a word but the low nibble of 5xyN and 9xyN, so where that nibble is 0 the word comes back. -/
theorem encode_decode {strict : Bool} {w : Word}
    (hn : strict = false → Field.c w = 0x5#4 ∨ Field.c w = 0x9#4 → Field.n w = 0#4) : encode (decode strict w) = w := by
  rcases nibble_cases (Field.c w) with
    h | h | h | h | h | h | h | h | h | h | h | h | h | h | h | h
  · rw [decode_class0 strict h]; exact encode_decodeClass0 w
  · rw [decode_class1 strict h]; exact word_of_addr h
  · rw [decode_class2 strict h]; exact word_of_addr h
  · rw [decode_class3 strict h]; exact word_of_byte h rfl
  · rw [decode_class4 strict h]; exact word_of_byte h rfl
  · rw [decode_class5 strict h]
    split
    next hskip => exact word_of_nibble h (hskip.elim id fun hs => hn hs (.inl h))
    next => rfl
  · rw [decode_class6 strict h]; exact word_of_byte h rfl
  · rw [decode_class7 strict h]; exact word_of_byte h rfl
  · rw [decode_class8 strict h]; exact encode_decodeClass8 h
  · rw [decode_class9 strict h]
    split
    next hskip => exact word_of_nibble h (hskip.elim id fun hs => hn hs (.inr h))
    next => rfl
  · rw [decode_classA strict h]; exact word_of_addr h
  · rw [decode_classB strict h]; exact word_of_addr h
  · rw [decode_classC strict h]; exact word_of_byte h rfl
  · rw [decode_classD strict h]; exact word_of_nibble h rfl
  · rw [decode_classE strict h]; exact encode_decodeClassE h
  · rw [decode_classF strict h]; exact encode_decodeClassF h

/-! ### UNKNOWN only on the unknown space (R80) -/

section UnknownSpace
variable (strict : Bool) {w w' : Word}

theorem unknownWord_class0 (hc : Field.c w = 0x0#4) :
    WellFormed.unknownWord strict w = (w != 0x00E0#16 && w != 0x00EE#16) := by
  rw [Field.c] at hc
  simp only [WellFormed.unknownWord, hc]

/-- In the classes of the skips on two registers, the space depends on `SKIP_REG_STRICT` (R81). -/
theorem unknownWord_skipReg (hc : Field.c w = 0x5#4 ∨ Field.c w = 0x9#4) :
    WellFormed.unknownWord strict w = (strict && Field.n w != 0#4) := by
  simp only [Field.c] at hc
  rcases hc with hc | hc <;> simp only [WellFormed.unknownWord, hc, Field.n]

theorem unknownWord_class8 (hc : Field.c w = 0x8#4) : WellFormed.unknownWord strict w =
    [0x8#4, 0x9#4, 0xA#4, 0xB#4, 0xC#4, 0xD#4, 0xF#4].contains (Field.n w) := by
  rw [Field.c] at hc
  simp only [WellFormed.unknownWord, hc, Field.n]

theorem unknownWord_classE (hc : Field.c w = 0xE#4) : WellFormed.unknownWord strict w =
    ! [0x9E#8, 0xA1#8].contains (Field.kk w) := by
  rw [Field.c] at hc
  simp only [WellFormed.unknownWord, hc, Field.kk]

theorem unknownWord_classF (hc : Field.c w = 0xF#4) : WellFormed.unknownWord strict w =
    ! [0x07#8, 0x0A#8, 0x15#8, 0x18#8, 0x1E#8, 0x29#8, 0x33#8, 0x55#8, 0x65#8].contains (Field.kk w) := by
  rw [Field.c] at hc
  simp only [WellFormed.unknownWord, hc, Field.kk]

theorem unknownWord_of_decodeClass0 (hc : Field.c w = 0x0#4) (h : decodeClass0 w = .unknown w') :
    w' = w ∧ WellFormed.unknownWord strict w = true := by
  rw [unknownWord_class0 strict hc]
  unfold decodeClass0 at h
  split at h
  · cases h
  · split at h
    · cases h
    · cases h
      simp [*]

/-- A skip on two registers that decodes to UNKNOWN has a nonzero low nibble, under the strict reading (R81). -/
theorem unknownWord_of_skipReg {i : Instr} (hc : Field.c w = 0x5#4 ∨ Field.c w = 0x9#4)
    (h : (if Field.n w = 0#4 ∨ strict = false then i else .unknown w) = .unknown w') (hi : i ≠ .unknown w') :
    w' = w ∧ WellFormed.unknownWord strict w = true := by
  rw [unknownWord_skipReg strict hc]
  split at h
  · exact absurd h hi
  · cases h
    simp_all

theorem unknownWord_of_decodeClass8 (hc : Field.c w = 0x8#4) (h : decodeClass8 w = .unknown w') :
    w' = w ∧ WellFormed.unknownWord strict w = true := by
  rw [unknownWord_class8 strict hc]
  unfold decodeClass8 at h
  generalize Field.n w = n at h ⊢
  split at h
  case h_10 =>
    cases h
    refine ⟨rfl, ?_⟩
    revert n
    decide
  all_goals cases h

theorem unknownWord_of_decodeClassE (hc : Field.c w = 0xE#4) (h : decodeClassE w = .unknown w') :
    w' = w ∧ WellFormed.unknownWord strict w = true := by
  rw [unknownWord_classE strict hc]
  unfold decodeClassE at h
  split at h
  case h_3 =>
    cases h
    simp_all
  all_goals cases h

theorem unknownWord_of_decodeClassF (hc : Field.c w = 0xF#4) (h : decodeClassF w = .unknown w') :
    w' = w ∧ WellFormed.unknownWord strict w = true := by
  rw [unknownWord_classF strict hc]
  unfold decodeClassF at h
  split at h
  case h_10 =>
    cases h
    simp_all
  all_goals cases h

/-- A word that decodes to UNKNOWN lies in the unknown space, and UNKNOWN keeps that word: in each class, the branches of the
decoder that answer UNKNOWN are those the space lists. -/
theorem unknownWord_of_decode (h : decode strict w = .unknown w') : w' = w ∧ WellFormed.unknownWord strict w = true := by
  rcases nibble_cases (Field.c w) with
    hc | hc | hc | hc | hc | hc | hc | hc | hc | hc | hc | hc | hc | hc | hc | hc
  · rw [decode_class0 strict hc] at h; exact unknownWord_of_decodeClass0 strict hc h
  · rw [decode_class1 strict hc] at h; cases h
  · rw [decode_class2 strict hc] at h; cases h
  · rw [decode_class3 strict hc] at h; cases h
  · rw [decode_class4 strict hc] at h; cases h
  · rw [decode_class5 strict hc] at h; exact unknownWord_of_skipReg strict (.inl hc) h nofun
  · rw [decode_class6 strict hc] at h; cases h
  · rw [decode_class7 strict hc] at h; cases h
  · rw [decode_class8 strict hc] at h; exact unknownWord_of_decodeClass8 strict hc h
  · rw [decode_class9 strict hc] at h; exact unknownWord_of_skipReg strict (.inr hc) h nofun
  · rw [decode_classA strict hc] at h; cases h
  · rw [decode_classB strict hc] at h; cases h
  · rw [decode_classC strict hc] at h; cases h
  · rw [decode_classD strict hc] at h; cases h
  · rw [decode_classE strict hc] at h; exact unknownWord_of_decodeClassE strict hc h
  · rw [decode_classF strict hc] at h; exact unknownWord_of_decodeClassF strict hc h

end UnknownSpace

/-- Every word decodes to a well-formed instruction: only UNKNOWN asks for anything, and it asks for the unknown space. -/
theorem wellFormed_decode (strict : Bool) (w : Word) : (decode strict w).wellFormed strict = true := by
  cases h : decode strict w with
  | unknown w' =>
    obtain ⟨rfl, hspace⟩ := unknownWord_of_decode strict h
    exact hspace
  | _ => rfl

/-! ### The obligations -/

/-- Settles O1: each field of an instruction's word is the operand written there, so the decoder reads it back. -/
theorem decodeOfEncodeIsInstr : Obligations.DecodeOfEncodeIsInstr := fun _ _ h => decode_encode h

/-- Settles O2: each class of words is decoded to fields that make up the word again. -/
theorem encodeOfDecodeIsWord : Obligations.EncodeOfDecodeIsWord := fun _ _ hn => encode_decode hn

/-- Settles O3: the branches of the decoder that answer UNKNOWN are those of the unknown space, in both directions. -/
theorem unknownExactlyTheUnknownSpace : Obligations.UnknownExactlyTheUnknownSpace := fun strict w =>
  ⟨wellFormed_decode strict w, ⟨fun h => (unknownWord_of_decode strict h).2, decode_of_unknownWord⟩,
    fun _ h => (unknownWord_of_decode strict h).1⟩

/-- Settles O5: the ten words are closed, and so is what each decodes to. -/
theorem sampleWordsDecode : Obligations.SampleWordsDecode := by
  unfold Obligations.SampleWordsDecode
  decide

end Sys2Proof

end

/-! PROOFS. The answers of the instructions that no section above speaks of: RET, CALL and JP V0 (40_flow.md), logic and RND
(41_alu.md), the key skips (43_keyboard.md), ADD I and LD F (44_index_timer_memory.md). -/

section

namespace Sys2Proof.Machine

open Sys2Proof.Claims

/-! ### Frames of the stack, the fault register and the count of draws -/

theorem kept_setStack (s : State) (l : List Word) : Kept [.stack] s (s.setStack l) := by
  intro p hp
  cases p with
  | stack => simp at hp
  | memory => exact fun _ => rfl
  | index | pc | delay | sound | framebuffer | keys | latch | dwstate | fault | drawFlag | params | draws | schedule => rfl

theorem kept_setFault (s : State) (f : FaultCode) : Kept [.fault] s (s.setFault f) := by
  intro p hp
  cases p with
  | fault => simp at hp
  | memory => exact fun _ => rfl
  | index | pc | stack | delay | sound | framebuffer | keys | latch | dwstate | drawFlag | params | draws | schedule => rfl

theorem kept_setDraws (s : State) (n : Nat) : Kept [.draws] s (s.setDraws n) := by
  intro p hp
  cases p with
  | draws => simp at hp
  | memory => exact fun _ => rfl
  | index | pc | stack | delay | sound | framebuffer | keys | latch | dwstate | fault | drawFlag | params | schedule => rfl

theorem Kept.mono {l m : List Part} {s t : State} (h : Kept l s t) (hlm : l ⊆ m) : Kept m s t :=
  fun p hp => h p fun hl => hp (hlm hl)

theorem kept_refl (s : State) : Kept [] s s := kept_withRegs s s.v

theorem kept_setStack_setPc (s : State) (l : List Word) (w : Word) : Kept [.pc, .stack] s ((s.setStack l).setPc w) :=
  Kept.mono (Kept.trans (kept_setStack s l) (kept_setPc _ w)) (by simp)

theorem kept_setDraws_setPc (s : State) (n : Nat) (w : Word) : Kept [.pc, .draws] s ((s.setDraws n).setPc w) :=
  Kept.mono (Kept.trans (kept_setDraws s n) (kept_setPc _ w)) (by simp)

/-! ### RET, CALL and JP V0 -/

section Flow
variable {s : State} (nnn : Addr)

theorem exec_ret_pop {top : Word} {rest : List Word} (h : s.stack = top :: rest) :
    exec .ret s = .next ((s.setStack rest).setPc top) := by
  change execRet s = _
  rw [execRet, h]

theorem exec_ret_empty (h : s.stack = []) : exec .ret s = .next (s.setFault .stackUnderflow) := by
  change execRet s = _
  rw [execRet, h, State.raiseFault_eq]

theorem exec_call_push (h : s.params.stackDepth ≠ some s.stack.length) :
    exec (.call nnn) s = .next ((s.setStack (s.pc :: s.stack)).setPc (zext16 nnn)) := by
  change execCall nnn s = _
  rw [execCall, if_neg (mt s.stackFull_iff.1 h)]
  rfl

theorem exec_call_full (h : s.params.stackDepth = some s.stack.length) :
    exec (.call nnn) s = .next (s.setFault .stackOverflow) := by
  change execCall nnn s = _
  rw [execCall, if_pos (s.stackFull_iff.2 h), State.raiseFault_eq]

theorem exec_jpV0 : exec (.jpV0 nnn) s = .next (s.setPc (zext16 nnn + zextByte (s.jumpOffset nnn))) := rfl

theorem zextByte_toNat (b : Byte) : (zextByte b).toNat = b.toNat := BitVec.toNat_setWidth_of_le (by decide)

/-- A 12-bit address and a byte have a sum of 16 bits, so nothing is masked (R104). -/
theorem zext16_add_zextByte_toNat (b : Byte) : (zext16 nnn + zextByte b).toNat = nnn.toNat + b.toNat := by
  have hn : nnn.toNat < 4096 := nnn.isLt
  have hb : b.toNat < 256 := b.isLt
  rw [BitVec.toNat_add, zext16_toNat, zextByte_toNat]
  omega

/-- The offset is V[nnn[11:8]] with `jumpx` and V0 without (R104, D33). -/
theorem State.jumpOffset_toNat : (s.jumpOffset nnn).toNat =
    if s.params.quirks.jumpx then (s.reg (nnn.extractLsb' 8 4)).toNat else (s.reg 0x0).toNat := by
  rw [State.jumpOffset, apply_ite BitVec.toNat]
  rfl

end Flow

/-- Settles O19: each of the two stacks has its answer, a pop into PC or the fault register written. -/
theorem retPopsOrRaisesUnderflow : Obligations.RetPopsOrRaisesUnderflow := fun s =>
  ⟨fun _ _ h => ⟨_, exec_ret_pop h, rfl, rfl, fun _ _ => rfl,
      kept_setStack_setPc s _ _⟩,
    fun h => ⟨_, exec_ret_empty h, rfl, fun _ _ => rfl, kept_setFault s _⟩⟩

/-- Settles O21: below capacity CALL answers a push and a jump, at capacity the fault register written; an empty stack is below a
positive capacity. -/
theorem callPushesOrRaisesOverflow : Obligations.CallPushesOrRaisesOverflow := by
  intro nnn s
  refine ⟨fun h => ?below, fun h => ?full, fun hsane hempty => ?empty⟩
  case below =>
    exact ⟨_, exec_call_push nnn h, zext16_toNat nnn, rfl, fun _ _ => rfl,
      kept_setStack_setPc s _ _⟩
  case full => exact ⟨_, exec_call_full nnn h, rfl, fun _ _ => rfl, kept_setFault s _⟩
  case empty =>
    have hbelow : s.params.stackDepth ≠ some s.stack.length := by simpa [hempty] using hsane
    exact ⟨_, exec_call_push nnn hbelow, zext16_toNat nnn, congrArg (s.pc :: ·) hempty, rfl⟩

/-- Settles O22: PC is set to a sum that fits 16 bits, and nothing else is. -/
theorem jpV0AddsOffset : Obligations.JpV0AddsOffset := by
  intro nnn s
  obtain ⟨t, hexec, hpc, hregs, hkept⟩ := setsPcOnly_of_exec (exec_jpV0 nnn (s := s))
  exact ⟨t, hexec, by rw [hpc, zext16_add_zextByte_toNat, State.jumpOffset_toNat], hregs, hkept⟩

/-! ### OR, AND, XOR and RND -/

section Logic
variable (x y : Nibble) (s : State)

theorem exec_orReg : exec (.orReg x y) s = .next ((s.setReg x (s.reg x ||| s.reg y)).logicFlag x) := rfl

theorem exec_andReg : exec (.andReg x y) s = .next ((s.setReg x (s.reg x &&& s.reg y)).logicFlag x) := rfl

theorem exec_xorReg : exec (.xorReg x y) s = .next ((s.setReg x (s.reg x ^^^ s.reg y)).logicFlag x) := rfl

theorem exec_rnd (kk : Byte) :
    exec (.rnd x kk) s = .next ((s.setDraws (s.draws + 1)).setReg x (Config.freeByte s.draws &&& kk)) := rfl

theorem kept_logicFlag : Kept [.draws] s (s.logicFlag x) := by
  rw [State.logicFlag_eq]
  exact Kept.trans (kept_withRegs s _) (kept_setDraws _ _)

/-- VF after a logic result in V[x] and then `LogicFlag(x)` is what R126 asks for; every other register is the result if it is V[x],
and unchanged if not. -/
theorem State.logicFlag_setReg_reg (res : Byte) (q : Nibble) : ((s.setReg x res).logicFlag x).reg q =
    if q = vf then logicVf s x res else if q = x then res else s.reg q := by
  change _ = if q = vf then if s.params.quirks.vfreset then 0 else if x = vf then res else Config.freeByte s.draws else _
  rcases State.logicFlag_cases (s.setReg x res) x with ⟨hq, h⟩ | ⟨hq, hx, h⟩ | ⟨hq, hx, h⟩
  all_goals
    rw [State.setReg_params] at hq
    rw [h, hq]
  · simp [State.setReg_reg]
  · by_cases hflag : q = vf <;> simp [State.setReg_reg, hx, hflag]
  · simp [State.setReg_reg, hx]

/-- A value is drawn exactly without `vfreset` and for x other than F (D10). -/
theorem State.logicFlag_draws : (s.logicFlag x).draws =
    if s.params.quirks.vfreset || x == 0xF then s.draws else s.draws + 1 := by
  change _ = if s.params.quirks.vfreset || x == vf then _ else _
  rcases State.logicFlag_cases s x with ⟨hq, h⟩ | ⟨hq, hx, h⟩ | ⟨hq, hx, h⟩
  all_goals rw [h, hq]
  · rfl
  · simp [hx]
  · simp [hx]

/-- A logic result in V[x] and then `LogicFlag(x)` are what R123 to R126 ask for. -/
theorem logicDone_logicFlag (res : Byte) : LogicDone s ((s.setReg x res).logicFlag x) x res := by
  refine ⟨?result, ?flag, State.logicFlag_draws x (s.setReg x res), fun q hq => ?others,
    Kept.trans (kept_setReg s x res) (kept_logicFlag x _)⟩
  case result =>
    rw [State.logicFlag_setReg_reg, if_pos rfl]
    rfl
  case flag =>
    rw [State.logicFlag_setReg_reg]
    rfl
  case others =>
    have hx : q ≠ x := List.ne_of_not_mem_cons hq
    have hvf : q ≠ vf := fun h => hq (by simp [h, vf])
    rw [State.logicFlag_setReg_reg, if_neg hvf, if_neg hx]

end Logic

/-- Settles O28: the three instructions are one write of V[x] and one `LogicFlag`, with three results. -/
theorem logicResultAndFlag : Obligations.LogicResultAndFlag := fun x y s =>
  ⟨⟨_, exec_orReg x y s, logicDone_logicFlag x s _⟩, ⟨_, exec_andReg x y s, logicDone_logicFlag x s _⟩,
    ⟨_, exec_xorReg x y s, logicDone_logicFlag x s _⟩⟩

/-- Settles O32: V[x] is a masked free byte, and a mask keeps no bit outside it. -/
theorem rndMasksAFreeByte : Obligations.RndMasksAFreeByte := by
  intro x kk s
  have hreg := State.setReg_reg_same (s.setDraws (s.draws + 1)) x (Config.freeByte s.draws &&& kk)
  refine ⟨_, exec_rnd x s kk, hreg, rfl, fun k hk => ?_, regsKept_setReg _ x _,
    Kept.trans (kept_setDraws s _) (kept_setReg _ x _)⟩
  rw [hreg, BitVec.getLsbD_and, hk, Bool.and_false]

/-! ### SKP and SKNP -/

section KeySkip
variable (s : State) (x : Nibble)

/-- The count of draws after KeyPressed: one more when the value is no key code (R170). -/
def State.drawsAfterKey (b : Byte) : Nat := if b.toNat < 16 then s.draws else s.draws + 1

/-- KeyPressed answers what R170 says, and draws a value only above 0xF. -/
theorem State.keyPressed_eq_pressed (b : Byte) : s.keyPressed b = (pressed s b, s.setDraws (s.drawsAfterKey b)) := by
  rcases s.keyPressed_cases b with ⟨hb, h⟩ | ⟨hb, h⟩
  · have hcode : (b.setWidth 4).toNat = b.toNat := by
      rw [BitVec.toNat_setWidth]
      exact Nat.mod_eq_of_lt hb
    rw [h, pressed, dif_pos hb, State.drawsAfterKey, if_pos hb]
    simp only [State.keyDown, hcode]
    rfl
  · rw [h, pressed, dif_neg (by omega), State.drawsAfterKey, if_neg (by omega)]

theorem exec_skp : exec (.skp x) s = .next
    ((s.setDraws (s.drawsAfterKey (s.reg x))).setPc (if pressed s (s.reg x) then s.pc + 2 else s.pc)) := by
  change execSkp x s = _
  rw [execSkp, State.keyPressed_eq_pressed, State.skipIf_eq]
  rfl

theorem exec_sknp : exec (.sknp x) s = .next
    ((s.setDraws (s.drawsAfterKey (s.reg x))).setPc (if pressed s (s.reg x) then s.pc else s.pc + 2)) := by
  change execSknp x s = _
  rw [execSknp, State.keyPressed_eq_pressed, State.skipIf_eq]
  cases pressed s (s.reg x) <;> rfl

end KeySkip

/-- Settles O38: both skips set PC, on opposite outcomes of KeyPressed, and count the value it drew. -/
theorem keySkips : Obligations.KeySkips := by
  rintro x s _ rfl
  exact ⟨⟨_, exec_skp s x, rfl, rfl, fun _ _ => rfl, kept_setDraws_setPc s _ _⟩,
    ⟨_, exec_sknp s x, rfl, rfl, fun _ _ => rfl, kept_setDraws_setPc s _ _⟩⟩

/-! ### ADD I and LD F -/

section Index
variable (s : State) (x : Nibble)

/-- Writing a register's own value changes nothing. -/
theorem State.setReg_self : s.setReg x (s.reg x) = s := by
  rw [State.setReg, State.reg, Vector.set_getElem_self]

/-- ADD I writes I, and VF with 1 on overflow and with itself otherwise (R184). -/
theorem exec_addIVx : exec (.addIVx x) s = .next ((s.setI (s.i + zextByte (s.reg x))).setReg vf
    (if 0xFFF < s.i.toNat + (s.reg x).toNat then 1 else s.reg vf)) := by
  change execAddIVx x s = _
  simp only [execAddIVx, indexOverflow, decide_eq_true_eq]
  split
  next => rfl
  next => exact congrArg _ (State.setReg_self (s.setI _) vf).symm

theorem exec_ldFVx : exec (.ldFVx x) s = .next (s.setI (glyphAddress (s.reg x))) := rfl

/-- The glyph of any byte lies below 0x10000, so the address is not masked (R185). -/
theorem glyphAddress_toNat (b : Byte) : (glyphAddress b).toNat = 0x050 + 5 * b.toNat := by
  have hb : b.toNat < 256 := b.isLt
  rw [glyphAddress, BitVec.toNat_ofNat, fontBase, glyphSize]
  omega

end Index

/-- Settles O43: I is the sum mod 0x10000, and VF is 1 or its old value by the exact sum. -/
theorem addIOverflowFlag : Obligations.AddIOverflowFlag := by
  intro x s
  refine ⟨_, exec_addIVx s x, ?_, State.setReg_reg_same _ vf _, regsKept_setReg _ vf _,
    Kept.trans (kept_setI s _) (kept_setReg _ vf _)⟩
  rw [State.setReg_i, State.setI_i, BitVec.toNat_add, zextByte_toNat]

/-- Settles O44: the answer sets I to the glyph's address and nothing else. -/
theorem ldFPointsAtGlyph : Obligations.LdFPointsAtGlyph := fun x s =>
  ⟨_, exec_ldFVx s x, glyphAddress_toNat _, fun _ _ => rfl, kept_setI s _⟩

end Sys2Proof.Machine

end

/-! PROOFS. A performed draw (42_display.md), pixel by pixel: the loops of the sprite engine against the loop-free sprite bit, drawing
twice, and the draw that ends a draw-wait. -/

section

namespace Sys2Proof.Machine

open Sys2Proof.Claims Sys2Proof.Config

/-! ### The loops draw the sprite -/

section Draw
variable (s : State) (x y n : Nibble)

/-- The bit that all rows and all eight columns put on a pixel is the one said without loops. -/
theorem State.rowsBit_eq_spriteOn (r : Fin displayH) (c : Fin displayW) :
    s.rowsBit (s.originCol x) (s.originRow y) 0 n.toNat r c = spriteOn s x y n r c := by
  have regroup : ∀ rowIn rowOn colIn colOn clip bit : Bool,
      (rowIn && (!clip || rowOn) && (colIn && (!clip || colOn) && bit)) =
      (rowIn && colIn && (!clip || (rowOn && colOn)) && bit) := by decide
  simp only [State.rowsBit, rowBit, Nat.zero_le, decide_true, Bool.true_and, Nat.zero_add]
  exact regroup ..

/-- What the loops leave: every pixel XORed with the sprite, and a hit exactly when a sprite bit fell on a lit pixel. -/
theorem State.blitResult_spec :
    (∀ r c, Framebuffer.pixel (s.blitResult x y n).1 r c = (Framebuffer.pixel s.fb r c ^^ spriteOn s x y n r c)) ∧
    ((s.blitResult x y n).2 = true ↔ ∃ r c, spriteOn s x y n r c = true ∧ Framebuffer.pixel s.fb r c = true) := by
  have hn : 0 + n.toNat ≤ displayH := by
    have hlt : n.toNat < 16 := n.isLt
    simp only [displayH]
    omega
  obtain ⟨hpixel, hhit⟩ := s.blitRows_spec (ox := s.originCol x) (oy := s.originRow y) (Nat.mod_lt _ (by decide))
    (Nat.mod_lt _ (by decide)) n.toNat 0 (s.fb, false) hn
  simp only [State.rowsBit_eq_spriteOn, Bool.false_eq_true, false_or] at hpixel hhit
  exact ⟨hpixel, hhit⟩

theorem State.blit_reg_vf : (s.blit x y n).reg 0xF = flagByte (s.blitResult x y n).2 := State.setReg_reg_same (s.setFb _) vf _

theorem regsKept_blit : RegsKept [0xF] s (s.blit x y n) := regsKept_setReg (s.setFb _) vf _

theorem kept_blit : Kept [.framebuffer, .drawFlag] s (s.blit x y n) :=
  Kept.trans (kept_setFb s _) (Kept.trans (kept_setReg _ vf _) (kept_setDrawFlag _ true))

theorem drawn_blit : Drawn s (s.blit x y n) x y n := by
  obtain ⟨hpixel, hhit⟩ := s.blitResult_spec x y n
  refine ⟨hpixel, ?_, rfl, regsKept_blit s x y n⟩
  rw [State.blit_reg_vf]
  cases h : (s.blitResult x y n).2
  · refine .inr ⟨rfl, fun r c hon => Bool.eq_false_iff.2 fun hlit => ?_⟩
    exact absurd (hhit.2 ⟨r, c, hon, hlit⟩) (by simp [h])
  · exact .inl ⟨rfl, hhit.1 h⟩

end Draw

/-! ### A DRW that is performed, and one that is not -/

section Ready
variable {s : State} (x y n : Nibble)

theorem exec_drw_ready (h : DrawReady s) :
    exec (.drw x y n) s = .next ((s.blit x y n).setDw (if s.params.quirks.dw then .free else s.dwstate)) := by
  cases hdw : s.params.quirks.dw with
  | false => rw [exec_drw_unguarded x y n hdw, if_neg Bool.false_ne_true, State.setDw_eq_self (s.blit_dwstate x y n)]
  | true => rw [exec_drw_refreshed x y n hdw (h.resolve_left (by simp [hdw])), if_pos rfl]

theorem exec_drw_not_ready (h : ¬ DrawReady s) : exec (.drw x y n) s = .next ((s.setPc (s.pc - 2)).setDw .waiting) := by
  obtain ⟨hdw, hd⟩ := not_or.1 h
  exact exec_drw_stalled x y n (by simpa using hdw) hd

end Ready

/-- Settles O34: the loops XOR the sprite into the framebuffer, and the draw-wait state is the only other thing written. -/
theorem drawIsPixelwiseXor : Obligations.DrawIsPixelwiseXor := fun x y n s h =>
  ⟨_, exec_drw_ready x y n h, drawn_blit s x y n, rfl, Kept.trans (kept_blit s x y n) (kept_setDw _ _)⟩

/-! ### Drawing twice -/

/-- The sprite is read from memory, I, the two position registers and `clip`. -/
theorem spriteOn_congr {s t : State} {x y : Nibble} (hx : t.reg x = s.reg x) (hy : t.reg y = s.reg y) (hi : t.i = s.i)
    (hmem : ∀ a, t.readByte a = s.readByte a) (hparams : t.params = s.params) (n : Nibble) :
    spriteOn t x y n = spriteOn s x y n := by
  unfold spriteOn
  simp only [hx, hy, hi, hmem, hparams]

/-- A draw leaves its own sprite alone when its position is not read from VF. -/
theorem spriteOn_blit (s : State) {x y : Nibble} (n : Nibble) (hx : x ≠ 0xF) (hy : y ≠ 0xF) :
    spriteOn (s.blit x y n) x y n = spriteOn s x y n := by
  have hkept := kept_blit s x y n
  have hregs := regsKept_blit s x y n
  exact spriteOn_congr (hregs x (by simpa using hx)) (hregs y (by simpa using hy)) (hkept .index (by decide))
    (hkept .memory (by decide)) (hkept .params (by decide)) n

/-- Settles O36: the second draw XORs every pixel with the same bit again, and meets a lit pixel where the first lit one. -/
theorem drawTwiceRestores : Obligations.DrawTwiceRestores := by
  intro x y n s t u hx hy hdw hst htu
  rw [exec_drw_unguarded x y n hdw] at hst
  cases hst
  have hdw' : (s.blit x y n).params.quirks.dw = false := hdw
  rw [exec_drw_unguarded x y n hdw'] at htu
  cases htu
  obtain ⟨hpixel, -⟩ := s.blitResult_spec x y n
  obtain ⟨hpixel', hhit'⟩ := (s.blit x y n).blitResult_spec x y n
  have hfirst : ∀ r c, Framebuffer.pixel (s.blit x y n).fb r c = (Framebuffer.pixel s.fb r c ^^ spriteOn s x y n r c) := hpixel
  rw [spriteOn_blit s n hx hy] at hpixel' hhit'
  constructor
  · refine Framebuffer.ext_pixel fun r c => (hpixel' r c).trans ?_
    rw [hfirst, Bool.xor_assoc, Bool.xor_self, Bool.xor_false]
  · have hflag : ∀ b, flagByte b = 1 ↔ b = true := by decide
    rw [State.blit_reg_vf, hflag, hhit']
    refine exists_congr fun r => exists_congr fun c => and_congr_right fun hon => ?_
    rw [hfirst, hon, Bool.xor_true, Bool.not_eq_true']

/-! ### The draw that ends a draw-wait -/

/-- A stalled DRW leaves PC at itself: the rewind undoes the fetch (R161). -/
theorem exec_drw_stalled_fetched {s : State} (x y n : Nibble) (hdw : s.params.quirks.dw = true)
    (hd : s.dwstate ≠ .refreshFinished) : exec (.drw x y n) s.fetched = .next ((s.setDrawFlag false).setDw .waiting) := by
  rw [exec_drw_stalled (s := s.fetched) x y n hdw hd]
  exact congrArg (fun u : State => Host.Outcome.next (u.setDw .waiting)) s.fetched_rewind

/-- A scheduled CYCLE of a running CORE runs the instruction at PC on the fetched state. -/
theorem step_cycle_running {s : State} {rest : List Transaction} {i : Instr} (hs : s.schedule = .cycle :: rest)
    (hf : s.fault = .noFault) (hi : s.currentInstr = i) : step s = exec i (s.setSchedule rest).fetched := by
  rw [step_of_cycleNext_running (.inr ⟨rest, hs⟩) hf, hs, hi]
  rfl

section DrawWait
variable {s : State} {x y n : Nibble} {rest : List Transaction}

/-- CYCLE, REFRESH, CYCLE at a DRW that has had no refresh: a stall, a refresh, and the draw. -/
theorem run_drawWait (hf : s.fault = .noFault) (hdw : s.params.quirks.dw = true) (hd : s.dwstate ≠ .refreshFinished)
    (hi : s.currentInstr = .drw x y n) (hs : s.schedule = .cycle :: .refresh :: .cycle :: rest) :
    core.run 3 s =
      .next ((((s.setDw .refreshFinished).setSchedule rest).fetched.blit x y n).setDw .free) := by
  have hstall : step s = .next (((s.setSchedule (.refresh :: .cycle :: rest)).setDrawFlag false).setDw .waiting) := by
    rw [step_cycle_running hs hf hi]
    exact exec_drw_stalled_fetched x y n hdw hd
  have hrefresh : step (((s.setSchedule (.refresh :: .cycle :: rest)).setDrawFlag false).setDw .waiting) =
      .next (((s.setDw .refreshFinished).setSchedule (.cycle :: rest)).setDrawFlag false) := by
    rw [step_host rfl (by decide)]
    rfl
  have hdraw : step (((s.setDw .refreshFinished).setSchedule (.cycle :: rest)).setDrawFlag false) =
      .next ((((s.setDw .refreshFinished).setSchedule rest).fetched.blit x y n).setDw .free) :=
    (step_cycle_running (s := ((s.setDw .refreshFinished).setSchedule (.cycle :: rest)).setDrawFlag false) rfl hf hi).trans
      (exec_drw_refreshed x y n hdw rfl)
  rw [core_run_succ 2 hstall, core_run_succ 1 hrefresh, core_run_succ 0 hdraw, core_run_zero]

end DrawWait

/-- Settles O37: the run ends in the draw, whose sprite, registers and framebuffer are those of the first state. -/
theorem drawWaitEndsAfterRefresh : Obligations.DrawWaitEndsAfterRefresh := by
  intro x y n s rest hf hdw hd hi hs
  refine ⟨_, run_drawWait hf hdw hd hi hs, drawn_blit ((s.setDw .refreshFinished).setSchedule rest).fetched x y n,
    rfl, rfl, rfl, ?_⟩
  have hbefore : Kept [.dwstate, .pc, .drawFlag, .schedule] s ((s.setDw .refreshFinished).setSchedule rest).fetched :=
    Kept.trans (kept_setDw s _) (kept_fetched_setSchedule _ rest)
  exact Kept.mono (Kept.trans hbefore (Kept.trans (kept_blit _ x y n) (kept_setDw _ _))) (by simp)

end Sys2Proof.Machine

end

/-! PROOFS. The run that ends a key wait (43_keyboard.md): a press and a release, each seen by a CYCLE. -/

section

namespace Sys2Proof.Machine

open Sys2Proof.Claims

theorem State.setLatch_eq_self {s : State} {l : Option Nibble} (h : s.latch = l) : s.setLatch l = s := by
  subst h
  rfl

section KeyWaitRun
variable {s : State} {x k : Nibble} {down up : Vector Bool 16} {rest : List Transaction}

/-- A key wait that latches a key leaves PC at itself: the rewind undoes the fetch (R174, row 2). -/
theorem exec_ldVxK_pressed_fetched (hl : s.latch = none) (hk : s.keyDown k = true) (hlow : ∀ j, j < k → s.keyDown j = false) :
    exec (.ldVxK x) s.fetched = .next ((s.setDrawFlag false).setLatch (some k)) := by
  rw [exec_ldVxK_pressed (s := s.fetched) x hl hk hlow]
  exact congrArg (fun u : State => Host.Outcome.next (u.setLatch (some k))) s.fetched_rewind

/-- KEYS, CYCLE, KEYS, CYCLE at a key wait: the lowest key pressed is latched, and its release writes its code to V[x]. -/
theorem run_keyWait (hf : s.fault = .noFault) (hl : s.latch = none) (hi : s.currentInstr = .ldVxK x)
    (hdown : down[k.toNat]'(k.isLt) = true) (hlow : ∀ j : Nibble, j < k → down[j.toNat]'(j.isLt) = false)
    (hup : up[k.toNat]'(k.isLt) = false) (hs : s.schedule = .keys down :: .cycle :: .keys up :: .cycle :: rest) :
    core.run 4 s = .next (((s.setKeys up).setSchedule rest).fetched.setReg x (k.setWidth 8)) := by
  have hpress : step s = .next ((s.setKeys down).setSchedule (.cycle :: .keys up :: .cycle :: rest)) :=
    step_host_setSchedule hs (by simp)
  have hlatch : step ((s.setKeys down).setSchedule (.cycle :: .keys up :: .cycle :: rest)) =
      .next ((((s.setKeys down).setSchedule (.keys up :: .cycle :: rest)).setDrawFlag false).setLatch (some k)) :=
    (step_cycle_running (s := (s.setKeys down).setSchedule (.cycle :: .keys up :: .cycle :: rest)) rfl hf hi).trans
      (exec_ldVxK_pressed_fetched (s := (s.setKeys down).setSchedule (.keys up :: .cycle :: rest)) hl hdown hlow)
  have hrelease : step ((((s.setKeys down).setSchedule (.keys up :: .cycle :: rest)).setDrawFlag false).setLatch (some k)) =
      .next ((((s.setKeys up).setSchedule (.cycle :: rest)).setDrawFlag false).setLatch (some k)) :=
    step_host_setSchedule (x := .keys up) rfl (by simp)
  have hwrite : step ((((s.setKeys up).setSchedule (.cycle :: rest)).setDrawFlag false).setLatch (some k)) =
      .next ((((s.setKeys up).setSchedule rest).fetched.setReg x (k.setWidth 8)).setLatch none) :=
    (step_cycle_running (s := (((s.setKeys up).setSchedule (.cycle :: rest)).setDrawFlag false).setLatch (some k)) rfl hf
      hi).trans (exec_ldVxK_released x rfl hup)
  rw [core_run_succ 3 hpress, core_run_succ 2 hlatch, core_run_succ 1 hrelease, core_run_succ 0 hwrite, core_run_zero]
  exact congrArg _ (State.setLatch_eq_self hl)

end KeyWaitRun

/-- Settles O40: the run ends in one fetch and one write of V[x], with the second snapshot in place. -/
theorem keyWaitEndsAfterPressAndRelease : Obligations.KeyWaitEndsAfterPressAndRelease := by
  intro x k s down up rest hf hl hi hdown hlow hup hs
  have hreg := State.setReg_reg_same ((s.setKeys up).setSchedule rest).fetched x (k.setWidth 8)
  refine ⟨_, run_keyWait hf hl hi hdown hlow hup hs, (congrArg BitVec.toNat hreg).trans (keyCode_toNat k), rfl, hl, rfl, rfl,
    regsKept_setReg _ x _, ?_⟩
  have hbefore : Kept [.keys, .pc, .drawFlag, .schedule] s ((s.setKeys up).setSchedule rest).fetched :=
    Kept.trans (kept_setKeys s up) (kept_fetched_setSchedule _ rest)
  exact Kept.mono (Kept.trans hbefore (kept_setReg _ x _)) (by simp)

end Sys2Proof.Machine

end

/-! PROOFS. The frame of every instruction (10_state.md section 1; 40_flow.md to 44_index_timer_memory.md): each answers a next state
that differs only where its rules say. -/

section

namespace Sys2Proof.Machine

open Sys2Proof.Claims

/-- What an instruction keeps: every piece of state and every register but those its rules name, and the canonical form of memory
(log entry 4). -/
structure InFrame (i : Instr) (s t : State) : Prop where
  kept  : Kept (mayChange i) s t
  regs  : ∀ r, ¬ mayWrite i r → t.reg r = s.reg r
  memWf : s.memWf = true → t.memWf = true

theorem State.logicFlag_memWf (s : State) (x : Nibble) : (s.logicFlag x).memWf = s.memWf := by
  rw [State.logicFlag_eq]
  rfl

theorem State.loadRegs_memWf (s : State) (k : Nat) : (s.loadRegs k).memWf = s.memWf := by
  rw [State.loadRegs_eq]
  rfl

theorem State.advanceI_memWf (s : State) (x : Nibble) : (s.advanceI x).memWf = s.memWf := by
  rw [State.advanceI_eq, State.setI_memWf]

theorem State.writeThree_wf {s : State} (h : s.memWf = true) (a : Nat) (b₀ b₁ b₂ : Byte) :
    (s.writeThree a b₀ b₁ b₂).memWf = true :=
  State.writeByte_wf (State.writeByte_wf (State.writeByte_wf h _ _) _ _) _ _

section Shapes
variable {i : Instr} {s : State}

/-- An instruction that only sets PC stays in its frame when it may change PC. -/
theorem inFrame_setPc {w : Word} (h : exec i s = .next (s.setPc w)) (hpc : .pc ∈ mayChange i) :
    ∃ t, exec i s = .next t ∧ InFrame i s t :=
  ⟨_, h, Kept.mono (kept_setPc s w) (by simpa using hpc), fun _ _ => rfl, id⟩

/-- An instruction that only writes one register stays in its frame when it may write that register. -/
theorem inFrame_setReg {x : Nibble} {b : Byte} (h : exec i s = .next (s.setReg x b)) (hx : mayWrite i x) :
    ∃ t, exec i s = .next t ∧ InFrame i s t :=
  ⟨_, h, Kept.mono (kept_setReg s x b) (List.nil_subset _), fun _ hr => State.setReg_reg_ne s b fun e => hr (e ▸ hx), id⟩

/-- An instruction that writes a result and VF stays in its frame when it may write those two registers. -/
theorem inFrame_setRegAndFlag {x : Nibble} {r f : Byte} (h : exec i s = .next (s.setRegAndFlag x r f))
    (hw : ∀ q, q = x ∨ q = 0xF → mayWrite i q) : ∃ t, exec i s = .next t ∧ InFrame i s t :=
  ⟨_, h, Kept.mono (kept_setRegAndFlag s x r f) (List.nil_subset _),
    fun q hq => regsKept_setRegAndFlag s x r f q fun hmem => hq (hw q (by simpa using hmem)), id⟩

/-- A logic instruction stays in its frame: it may draw a value, and write V[x] and VF. -/
theorem inFrame_logic {x : Nibble} {res : Byte} (h : exec i s = .next ((s.setReg x res).logicFlag x))
    (hd : .draws ∈ mayChange i) (hw : ∀ q, q = x ∨ q = 0xF → mayWrite i q) : ∃ t, exec i s = .next t ∧ InFrame i s t := by
  obtain ⟨-, -, -, hregs, hkept⟩ := logicDone_logicFlag x s res
  refine ⟨_, h, Kept.mono hkept (by simpa using hd), fun q hq => hregs q fun hmem => hq (hw q (by simpa using hmem)),
    fun hwf => ?_⟩
  rw [State.logicFlag_memWf, State.setReg_memWf, hwf]

end Shapes

/-! ### The instructions with more than one answer -/

theorem frame_ret (s : State) : ∃ t, exec .ret s = .next t ∧ InFrame .ret s t := by
  cases hs : s.stack with
  | nil => exact ⟨_, exec_ret_empty hs, Kept.mono (kept_setFault s _) (by simp [mayChange]), fun _ _ => rfl, id⟩
  | cons top rest =>
    exact ⟨_, exec_ret_pop hs, Kept.mono (kept_setStack_setPc s _ _) (by simp [mayChange]), fun _ _ => rfl, id⟩

theorem frame_call (nnn : Addr) (s : State) : ∃ t, exec (.call nnn) s = .next t ∧ InFrame (.call nnn) s t := by
  by_cases hfull : s.params.stackDepth = some s.stack.length
  · exact ⟨_, exec_call_full nnn hfull, Kept.mono (kept_setFault s _) (by simp [mayChange]), fun _ _ => rfl, id⟩
  · exact ⟨_, exec_call_push nnn hfull, Kept.mono (kept_setStack_setPc s _ _) (by simp [mayChange]), fun _ _ => rfl, id⟩

theorem frame_drw (x y n : Nibble) (s : State) : ∃ t, exec (.drw x y n) s = .next t ∧ InFrame (.drw x y n) s t := by
  by_cases hready : DrawReady s
  · exact ⟨_, exec_drw_ready x y n hready, Kept.mono (Kept.trans (kept_blit s x y n) (kept_setDw _ _)) (by simp [mayChange]),
      fun r hr => regsKept_blit s x y n r (mt List.mem_singleton.1 hr), id⟩
  · exact ⟨_, exec_drw_not_ready x y n hready, Kept.mono (Kept.trans (kept_setPc s _) (kept_setDw _ _)) (by simp [mayChange]),
      fun _ _ => rfl, id⟩

/-- In each row of the key wait's table it changes PC or the latch, or it writes V[x] and the latch (R174). -/
theorem frame_ldVxK (x : Nibble) (s : State) : ∃ t, exec (.ldVxK x) s = .next t ∧ InFrame (.ldVxK x) s t := by
  cases hl : s.latch with
  | none =>
    cases hk : s.lowestKey with
    | none => exact inFrame_setPc (exec_ldVxK_idle x hl (s.lowestKey_none.1 hk)) (by simp [mayChange])
    | some k =>
      obtain ⟨hdown, hlow⟩ := State.lowestKey_some hk
      exact ⟨_, exec_ldVxK_pressed x hl hdown hlow,
        Kept.mono (Kept.trans (kept_setLatch s _) (kept_setPc _ _)) (by simp [mayChange]), fun _ _ => rfl, id⟩
  | some k =>
    cases hk : s.keyDown k with
    | true => exact inFrame_setPc (exec_ldVxK_held x hl hk) (by simp [mayChange])
    | false =>
      exact ⟨_, exec_ldVxK_released x hl hk,
        Kept.mono (Kept.trans (kept_setReg s x _) (kept_setLatch _ _)) (by simp [mayChange]),
        fun r hr => State.setReg_reg_ne s _ hr, id⟩

/-! ### Every instruction -/

/-- Every instruction answers a next state, and stays in its frame. -/
theorem exec_inFrame (i : Instr) (s : State) : ∃ t, exec i s = .next t ∧ InFrame i s t := by
  cases i with
  | cls => exact ⟨_, exec_cls s, Kept.trans (kept_setFb s _) (kept_setDrawFlag _ _), fun _ _ => rfl, id⟩
  | ret => exact frame_ret s
  | jp nnn => exact inFrame_setPc (exec_jp nnn s) (by simp [mayChange])
  | call nnn => exact frame_call nnn s
  | seImm x kk => exact inFrame_setPc (exec_seImm x kk s) (by simp [mayChange])
  | sneImm x kk => exact inFrame_setPc (exec_sneImm x kk s) (by simp [mayChange])
  | seReg x y => exact inFrame_setPc (exec_seReg x y s) (by simp [mayChange])
  | sneReg x y => exact inFrame_setPc (exec_sneReg x y s) (by simp [mayChange])
  | jpV0 nnn => exact inFrame_setPc (exec_jpV0 nnn) (by simp [mayChange])
  | ldImm x kk => exact inFrame_setReg (exec_ldImm x kk s) rfl
  | addImm x kk => exact inFrame_setReg (exec_addImm x kk s) rfl
  | ldReg x y => exact inFrame_setReg (exec_ldReg x y s) rfl
  | ldVxDt x => exact inFrame_setReg (exec_ldVxDt x s) rfl
  | orReg x y => exact inFrame_logic (exec_orReg x y s) (by simp [mayChange]) fun _ h => h
  | andReg x y => exact inFrame_logic (exec_andReg x y s) (by simp [mayChange]) fun _ h => h
  | xorReg x y => exact inFrame_logic (exec_xorReg x y s) (by simp [mayChange]) fun _ h => h
  | addReg x y => exact inFrame_setRegAndFlag (exec_addReg x y s) fun _ h => h
  | subReg x y => exact inFrame_setRegAndFlag (exec_subReg x y s) fun _ h => h
  | subnReg x y => exact inFrame_setRegAndFlag (exec_subnReg x y s) fun _ h => h
  | shrReg x y => exact inFrame_setRegAndFlag (exec_shrReg x y s) fun _ h => h
  | shlReg x y => exact inFrame_setRegAndFlag (exec_shlReg x y s) fun _ h => h
  | rnd x kk =>
    exact ⟨_, exec_rnd x s kk, Kept.trans (kept_setDraws s _) (kept_setReg _ x _), fun _ hr => State.setReg_reg_ne _ _ hr, id⟩
  | drw x y n => exact frame_drw x y n s
  | skp x => exact ⟨_, exec_skp s x, kept_setDraws_setPc s _ _, fun _ _ => rfl, id⟩
  | sknp x => exact ⟨_, exec_sknp s x, kept_setDraws_setPc s _ _, fun _ _ => rfl, id⟩
  | ldVxK x => exact frame_ldVxK x s
  | ldDtVx x => exact ⟨_, exec_ldDtVx x s, kept_setDt s _, fun _ _ => rfl, id⟩
  | ldStVx x => exact ⟨_, exec_ldStVx x s, kept_setSt s _, fun _ _ => rfl, id⟩
  | ldI nnn => exact ⟨_, exec_ldI s nnn, kept_setI s _, fun _ _ => rfl, id⟩
  | ldFVx x => exact ⟨_, exec_ldFVx s x, kept_setI s _, fun _ _ => rfl, id⟩
  | addIVx x =>
    exact ⟨_, exec_addIVx s x, Kept.trans (kept_setI s _) (kept_setReg _ vf _), fun _ hr => State.setReg_reg_ne _ _ hr, id⟩
  | ldBVx x => exact ⟨_, exec_ldBVx x s, kept_writeThree s _ _ _ _, fun _ _ => rfl, fun hwf => State.writeThree_wf hwf _ _ _ _⟩
  | ldMemVx x =>
    exact ⟨_, exec_ldMemVx x s, Kept.trans (kept_storeRegs s _) (kept_advanceI _ x),
      fun r _ => (State.advanceI_reg _ x r).trans (s.storeRegs_reg _ r),
      fun hwf => (State.advanceI_memWf _ x).trans (State.storeRegs_wf hwf _)⟩
  | ldVxMem x =>
    refine ⟨_, exec_ldVxMem x s, Kept.trans (kept_loadRegs s _) (kept_advanceI _ x), fun r hr => ?regs, fun hwf => ?memWf⟩
    case regs => rw [State.advanceI_reg, State.loadRegs_reg s x.isLt, if_neg (mt (toNat_lt_succ_iff_le r x).1 hr)]
    case memWf => rw [State.advanceI_memWf, State.loadRegs_memWf, hwf]
  | unknown w => exact ⟨_, exec_unknown w s, kept_refl s, fun _ _ => rfl, id⟩

/-- The one answer of an instruction stays in its frame. -/
theorem inFrame_of_exec {i : Instr} {s t : State} (h : exec i s = .next t) : InFrame i s t := by
  obtain ⟨t', h', hframe⟩ := exec_inFrame i s
  rw [h'] at h
  cases h
  exact hframe

/-- A piece of state that an instruction may not change is the same after it. -/
theorem exec_keeps {i : Instr} {s t : State} (h : exec i s = .next t) {p : Part} (hp : p ∉ mayChange i) : p.Same s t :=
  (inFrame_of_exec h).kept p hp

/-- Settles O48: instruction by instruction, the one answer stays in the frame. -/
theorem everyInstrKeepsItsFrame : Obligations.EveryInstrKeepsItsFrame := fun _ _ _ h =>
  ⟨(inFrame_of_exec h).kept, (inFrame_of_exec h).regs⟩

end Sys2Proof.Machine

end

/-! PROOFS. What every instruction does to the fault register, the free values and the screen, read off its frame
(60_exceptions.md section 1; 93_implementation_defined.md section 1; 10_state.md section 9). -/

section

namespace Sys2Proof.Machine

open Sys2Proof.Claims

/-- An instruction has one answer. -/
theorem exec_unique {i : Instr} {s t u : State} (h : exec i s = .next t) (h' : exec i s = .next u) : t = u :=
  Host.Outcome.next.inj (h.symm.trans h')

/-! ### Faults -/

/-- Settles O49: RET and CALL have an answer that writes the fault register; for every other instruction it is outside the frame. -/
theorem onlyStackInstrsRaiseFaults : Obligations.OnlyStackInstrsRaiseFaults := by
  intro i s t h
  cases i with
  | ret =>
    cases hs : s.stack with
    | nil =>
      obtain rfl := exec_unique h (exec_ret_empty hs)
      exact .inr (.inl ⟨rfl, rfl, rfl⟩)
    | cons top rest =>
      obtain rfl := exec_unique h (exec_ret_pop hs)
      exact .inl rfl
  | call nnn =>
    by_cases hfull : s.params.stackDepth = some s.stack.length
    · obtain rfl := exec_unique h (exec_call_full nnn hfull)
      exact .inr (.inr ⟨⟨nnn, rfl⟩, hfull, rfl⟩)
    · obtain rfl := exec_unique h (exec_call_push nnn hfull)
      exact .inl rfl
  | _ => exact .inl (exec_keeps h (p := .fault) (by simp [mayChange]))

/-! ### Free values -/

section Draws
variable (s : State) (x : Nibble)

/-- A logic instruction draws nothing, or one value without `vfreset` and for x other than F (D10). -/
theorem draws_of_logic (res : Byte) : ((s.setReg x res).logicFlag x).draws = s.draws ∨
    ((s.setReg x res).logicFlag x).draws = s.draws + 1 ∧ s.params.quirks.vfreset = false ∧ x ≠ 0xF := by
  rw [State.logicFlag_draws, State.setReg_params, State.setReg_draws]
  split
  next => exact .inl rfl
  next hopen =>
    obtain ⟨hq, hx⟩ := not_or.1 (mt Bool.or_eq_true_iff.2 hopen)
    exact .inr ⟨rfl, Bool.eq_false_iff.2 hq, fun h => hx (beq_iff_eq.2 h)⟩

/-- KeyPressed draws nothing, or one value above 0xF (D12). -/
theorem State.drawsAfterKey_cases (b : Byte) : s.drawsAfterKey b = s.draws ∨
    s.drawsAfterKey b = s.draws + 1 ∧ 0xF < b.toNat := by
  unfold State.drawsAfterKey
  split
  next => exact .inl rfl
  next h => exact .inr ⟨rfl, by omega⟩

end Draws

/-- Settles O51: logic, RND and the key skips have the cases of their draws; for every other instruction the count is outside the
frame. -/
theorem freeValuesOnlyWhereOpen : Obligations.FreeValuesOnlyWhereOpen := by
  intro i s t h
  cases i with
  | orReg x y =>
    obtain rfl := exec_unique h (exec_orReg x y s)
    exact (draws_of_logic s x _).imp_right fun ⟨hd, hopen⟩ => ⟨hd, .inl ⟨x, y, .inl rfl, hopen⟩⟩
  | andReg x y =>
    obtain rfl := exec_unique h (exec_andReg x y s)
    exact (draws_of_logic s x _).imp_right fun ⟨hd, hopen⟩ => ⟨hd, .inl ⟨x, y, .inr (.inl rfl), hopen⟩⟩
  | xorReg x y =>
    obtain rfl := exec_unique h (exec_xorReg x y s)
    exact (draws_of_logic s x _).imp_right fun ⟨hd, hopen⟩ => ⟨hd, .inl ⟨x, y, .inr (.inr rfl), hopen⟩⟩
  | rnd x kk =>
    obtain rfl := exec_unique h (exec_rnd x s kk)
    exact .inr ⟨rfl, .inr (.inl ⟨x, kk, rfl⟩)⟩
  | skp x =>
    obtain rfl := exec_unique h (exec_skp s x)
    exact (s.drawsAfterKey_cases (s.reg x)).imp_right fun ⟨hd, hbig⟩ => ⟨hd, .inr (.inr ⟨x, .inl rfl, hbig⟩)⟩
  | sknp x =>
    obtain rfl := exec_unique h (exec_sknp s x)
    exact (s.drawsAfterKey_cases (s.reg x)).imp_right fun ⟨hd, hbig⟩ => ⟨hd, .inr (.inr ⟨x, .inr rfl, hbig⟩)⟩
  | _ => exact .inl (exec_keeps h (p := .draws) (by simp [mayChange]))

/-! ### Screen writes -/

/-- From a clear draw flag, an instruction sets it exactly when it is CLS or a DRW that is performed, and otherwise leaves the
framebuffer alone (D20). -/
theorem drawFlag_of_exec {i : Instr} {s t : State} (h : exec i s = .next t) (hclear : s.drawFlag = false) :
    (t.drawFlag = true ↔ i = .cls ∨ (∃ x y n, i = .drw x y n) ∧ DrawReady s) ∧ (t.drawFlag = false → t.fb = s.fb) := by
  cases i with
  | cls =>
    obtain rfl := exec_unique h (exec_cls s)
    exact ⟨iff_of_true rfl (.inl rfl), nofun⟩
  | drw x y n =>
    by_cases hready : DrawReady s
    · obtain rfl := exec_unique h (exec_drw_ready x y n hready)
      exact ⟨iff_of_true rfl (.inr ⟨⟨x, y, n, rfl⟩, hready⟩), nofun⟩
    · obtain rfl := exec_unique h (exec_drw_not_ready x y n hready)
      exact ⟨iff_of_false (by simp [hclear]) (by simp [hready]), fun _ => rfl⟩
  | _ =>
    have hflag : t.drawFlag = false := (exec_keeps h (p := .drawFlag) (by simp [mayChange])).trans hclear
    exact ⟨by simp [hflag], fun _ => exec_keeps h (p := .framebuffer) (by simp [mayChange])⟩

/-- Settles O50: the fetch clears the draw flag, and keeps the framebuffer and what decides whether a DRW is performed. -/
theorem drawFlagTellsScreenWrites : Obligations.DrawFlagTellsScreenWrites := by
  intro s t hcycle hfault hstep
  rw [step_of_cycleNext_running hcycle hfault] at hstep
  exact drawFlag_of_exec (s := (s.setSchedule s.schedule.tail).fetched) hstep rfl

end Sys2Proof.Machine

end

/-! PROOFS. The step (00_scope.md section 3; 30_encoding.md section 2; 60_exceptions.md sections 1 and 4): it always answers, and what
every transaction keeps. -/

section

namespace Sys2Proof.Machine

open Sys2Proof.Claims

/-! ### Every step answers -/

theorem cycle_answers (s : State) : ∃ t, cycle s = .next t := by
  by_cases hf : s.fault = .noFault
  · obtain ⟨t, h, -⟩ := exec_inFrame s.currentInstr s.fetched
    exact ⟨t, (cycle_running hf).trans h⟩
  · exact ⟨s, cycle_halted hf⟩

/-- Settles O13: a CYCLE answers, running or halted, and so does every other transaction. -/
theorem stepAlwaysAnswers : Obligations.StepAlwaysAnswers := by
  intro s
  cases hs : s.schedule with
  | nil =>
    rw [step_of_cycleNext (.inl hs)]
    exact cycle_answers _
  | cons x rest =>
    by_cases hx : x = .cycle
    · rw [step_of_cycleNext (.inr ⟨rest, hx ▸ hs⟩)]
      exact cycle_answers _
    · exact ⟨_, step_host hs hx⟩

/-- Settles O6: the two bytes decode to the instruction at PC, which the step runs on the fetched state. -/
theorem stepRunsDecodedInstr : Obligations.StepRunsDecodedInstr := by
  intro s i hcycle hfault hdecode
  have hi : s.currentInstr = i := congrArg Prod.fst (Except.ok.inj hdecode)
  refine ⟨?_, hi.symm⟩
  rw [step_of_cycleNext_running hcycle hfault, hi]
  rfl

/-- Settles O7: a halted CYCLE answers the state it is given, which has lost that CYCLE from its schedule. -/
theorem haltedCycleChangesNothing : Obligations.HaltedCycleChangesNothing := by
  intro s hcycle hfault
  rw [step_of_cycleNext hcycle, cycle_halted (by simpa using hfault)]
  rfl

/-! ### What every transaction keeps -/

/-- The transactions other than CYCLE act on the timers, the key snapshot and the draw-wait state only (D26). -/
theorem kept_hostEffect (x : Transaction) (s : State) : Kept [.delay, .sound, .keys, .dwstate] s (hostEffect x s) := by
  cases x with
  | tick => exact Kept.mono (Kept.trans (kept_setDt s _) (kept_setSt _ _)) (by simp)
  | keys snapshot => exact Kept.mono (kept_setKeys s snapshot) (by simp)
  | refresh =>
    rw [hostEffect_refresh, refresh_eq_setDw]
    exact Kept.mono (kept_setDw s _) (by simp)
  | cycle | readFb | readTimers | readStatus => exact Kept.mono (kept_refl s) (by simp)

theorem hostEffect_v (x : Transaction) (s : State) : (hostEffect x s).v = s.v := by
  cases x with
  | refresh => rw [hostEffect_refresh, refresh_eq_setDw, State.setDw_v]
  | cycle | tick | keys snapshot | readFb | readTimers | readStatus => rfl

theorem regsKept_hostEffect (x : Transaction) (s : State) : RegsKept [] s (hostEffect x s) := by
  intro r _
  simp only [State.reg, hostEffect_v]

theorem hostEffect_keys_of_ne {x : Transaction} (h : ∀ snapshot, x ≠ .keys snapshot) (s : State) :
    (hostEffect x s).keys = s.keys := by
  cases x with
  | keys snapshot => exact absurd rfl (h snapshot)
  | refresh => rw [hostEffect_refresh, refresh_eq_setDw, State.setDw_keys]
  | cycle | tick | readFb | readTimers | readStatus => rfl

/-- No instruction may change the key snapshot, the parameters or the schedule. -/
theorem host_parts_not_mem_mayChange (i : Instr) : .keys ∉ mayChange i ∧ .params ∉ mayChange i ∧ .schedule ∉ mayChange i := by
  cases i <;> simp [mayChange]

theorem schedule_tail {s : State} {rest : List Transaction} (h : s.schedule = .cycle :: rest ∨ s.schedule = [] ∧ rest = []) :
    rest = s.schedule.tail := by
  rcases h with h | ⟨h, rfl⟩ <;> simp [h]

/-- Settles O54: an instruction may change none of the three, a halted CYCLE changes the schedule only, and another transaction
changes the keys only if it is KEYS. -/
theorem paramsFixedAndScheduleTaken : Obligations.ParamsFixedAndScheduleTaken := by
  intro s t h
  rcases step_cases h with ⟨rest, hs, -, hexec⟩ | ⟨rest, hs, -, rfl⟩ | ⟨x, rest, hs, -, rfl⟩
  · obtain ⟨hkeys, hparams, hschedule⟩ := host_parts_not_mem_mayChange s.currentInstr
    exact ⟨exec_keeps hexec hparams, (exec_keeps hexec hschedule).trans (schedule_tail hs), fun _ => exec_keeps hexec hkeys⟩
  · exact ⟨rfl, schedule_tail hs, fun _ => rfl⟩
  · have hkept := kept_hostEffect x (s.setSchedule rest)
    refine ⟨hkept .params (by decide), (hkept .schedule (by decide)).trans (by simp [hs]), fun hne => ?_⟩
    exact hostEffect_keys_of_ne (fun snapshot hx => hne snapshot rest (hx ▸ hs)) (s.setSchedule rest)

/-- Settles O53: a faulted CORE runs no instruction, and its other transactions act on four pieces of state. -/
theorem faultHaltsForGood : Obligations.FaultHaltsForGood := by
  intro s t hfault h
  rcases step_cases h with ⟨rest, -, hrunning, -⟩ | ⟨rest, -, -, rfl⟩ | ⟨x, rest, -, -, rfl⟩
  · exact absurd hrunning hfault
  · exact ⟨fun _ _ => rfl, Kept.mono (kept_setSchedule s rest) (by simp)⟩
  · exact ⟨regsKept_hostEffect x (s.setSchedule rest),
      Kept.mono (Kept.trans (kept_setSchedule s rest) (kept_hostEffect x _)) (by simp)⟩

/-! ### The invariant -/

section Inv
variable {s t : State}

/-- The schedule is no part of the invariant. -/
theorem inv_setSchedule (h : s.Inv) (l : List Transaction) : (s.setSchedule l).Inv :=
  ⟨h.memWf, h.stackFits, h.drawWaitIdle, h.latchWaits⟩

/-- A transaction other than CYCLE keeps the invariant: only REFRESH touches a part of it, and it leaves FREE alone (R164). -/
theorem inv_hostEffect (h : s.Inv) (x : Transaction) : (hostEffect x s).Inv := by
  cases x with
  | refresh =>
    rw [hostEffect_refresh, refresh_eq_setDw]
    refine ⟨h.memWf, h.stackFits, fun hdw => ?_, h.latchWaits⟩
    have hfree : s.dwstate = .free := h.drawWaitIdle hdw
    rw [State.setDw_dwstate, hfree]
    rfl
  | cycle | tick | keys snapshot | readFb | readTimers | readStatus =>
    exact ⟨h.memWf, h.stackFits, h.drawWaitIdle, h.latchWaits⟩

/-- RET takes an entry off, CALL pushes below capacity only, and no other instruction touches the stack (10_state.md R29). -/
theorem stackFits_of_exec {i : Instr} (h : exec i s = .next t) (hfits : s.StackFits) : t.StackFits := by
  cases i with
  | ret =>
    cases hs : s.stack with
    | nil =>
      obtain rfl := exec_unique h (exec_ret_empty hs)
      exact hfits
    | cons top rest =>
      obtain rfl := exec_unique h (exec_ret_pop hs)
      intro n hn
      have hle : (top :: rest).length ≤ n := hs ▸ hfits n hn
      exact Nat.le_of_succ_le hle
  | call nnn =>
    by_cases hfull : s.params.stackDepth = some s.stack.length
    · obtain rfl := exec_unique h (exec_call_full nnn hfull)
      exact hfits
    · obtain rfl := exec_unique h (exec_call_push nnn hfull)
      intro n hn
      have hne : s.stack.length ≠ n := fun hlen => hfull (hlen ▸ hn)
      exact Nat.lt_of_le_of_ne (hfits n hn) hne
  | _ =>
    have hparams : t.params = s.params := exec_keeps h (p := .params) (by simp [mayChange])
    have hstack : t.stack = s.stack := exec_keeps h (p := .stack) (by simp [mayChange])
    rw [State.StackFits, hparams, hstack]
    exact hfits

/-- With `dw` clear a DRW draws at once and keeps the draw-wait state, which no other instruction touches (R162). -/
theorem drawWaitIdle_of_exec {i : Instr} (h : exec i s = .next t) (hidle : s.DrawWaitIdle) : t.DrawWaitIdle := by
  intro hdw
  have hparams : t.params = s.params := exec_keeps h (host_parts_not_mem_mayChange i).2.1
  rw [hparams] at hdw
  cases i with
  | drw x y n =>
    obtain rfl := exec_unique h (exec_drw_unguarded x y n hdw)
    exact (s.blit_dwstate x y n).trans (hidle hdw)
  | _ => exact (exec_keeps h (p := .dwstate) (by simp [mayChange])).trans (hidle hdw)

/-- After a CYCLE at a key wait no key is latched, or PC still rests on the wait (43_keyboard.md R174, R176). -/
theorem keyWait_rests {x : Nibble} (h : exec (.ldVxK x) s.fetched = .next t) :
    t.latch = none ∨ t.currentInstr = s.currentInstr := by
  have hrewind : (s.fetched.setPc (s.fetched.pc - 2)).currentInstr = s.currentInstr := by
    rw [← State.rewind_eq, State.fetched_rewind, State.setDrawFlag_currentInstr]
  cases hl : s.latch with
  | none =>
    cases hk : s.lowestKey with
    | none =>
      obtain rfl := exec_unique h (exec_ldVxK_idle (s := s.fetched) x hl (s.lowestKey_none.1 hk))
      exact .inl hl
    | some k =>
      obtain ⟨hdown, hlow⟩ := State.lowestKey_some hk
      obtain rfl := exec_unique h (exec_ldVxK_pressed (s := s.fetched) x hl hdown hlow)
      exact .inr hrewind
  | some k =>
    cases hk : s.keyDown k with
    | true =>
      obtain rfl := exec_unique h (exec_ldVxK_held (s := s.fetched) x hl hk)
      exact .inr hrewind
    | false =>
      obtain rfl := exec_unique h (exec_ldVxK_released (s := s.fetched) x hl hk)
      exact .inl rfl

/-- Only the key wait may change the latch (R176). -/
theorem latch_mem_mayChange {i : Instr} (h : .latch ∈ mayChange i) : ∃ x, i = .ldVxK x := by
  cases i with
  | ldVxK x => exact ⟨x, rfl⟩
  | _ => simp [mayChange] at h

/-- A CYCLE at a key wait leaves no latch or stays at the wait; at any other instruction there was no latch, and there is none. -/
theorem latchWaits_of_exec (h : exec s.currentInstr s.fetched = .next t) (hwaits : s.LatchWaits) : t.LatchWaits := by
  intro k hk
  by_cases hchange : .latch ∈ mayChange s.currentInstr
  · obtain ⟨x, hx⟩ := latch_mem_mayChange hchange
    rw [hx] at h
    rcases keyWait_rests h with hnone | hrests
    · rw [hnone] at hk
      cases hk
    · exact ⟨x, hrests.trans hx⟩
  · have hlatch : t.latch = s.latch := exec_keeps h (p := .latch) hchange
    obtain ⟨x, hx⟩ := hwaits k (hlatch.symm.trans hk)
    exact absurd (by simp [hx, mayChange]) hchange

/-- A CYCLE of a running CORE keeps the invariant, part by part. -/
theorem inv_of_exec (h : exec s.currentInstr s.fetched = .next t) (hinv : s.Inv) : t.Inv where
  memWf := (inFrame_of_exec h).memWf hinv.memWf
  stackFits := stackFits_of_exec h hinv.stackFits
  drawWaitIdle := drawWaitIdle_of_exec h hinv.drawWaitIdle
  latchWaits := latchWaits_of_exec h hinv.latchWaits

end Inv

/-- Settles O55: a running CYCLE keeps each part of the invariant, a halted one and every other transaction keep all of it. -/
theorem stepKeepsInv : Obligations.StepKeepsInv := by
  intro s t hinv h
  rcases step_cases h with ⟨rest, -, -, hexec⟩ | ⟨rest, -, -, rfl⟩ | ⟨x, rest, -, -, rfl⟩
  · exact inv_of_exec (s := s.setSchedule rest) hexec (inv_setSchedule hinv rest)
  · exact inv_setSchedule hinv rest
  · exact inv_hostEffect (inv_setSchedule hinv rest) x

end Sys2Proof.Machine

end

/-! PROOFS. No instruction reads ST or the draw flag (10_state.md sections 5 and 9): executing from a state with other values of the two
answers the same state with some values of the two. -/

section

namespace Sys2Proof.Machine

open Sys2Proof.Claims Sys2Proof.Config

/-- A state with other values of the two pieces that no instruction reads. -/
def State.withUnread (s : State) (b : Byte) (d : Bool) : State := (s.setSt b).setDrawFlag d

section Unread
variable (s : State) (b : Byte) (d : Bool)

theorem State.storeRegs_withUnread (k : Nat) : (s.withUnread b d).storeRegs k = (s.storeRegs k).withUnread b d := by
  induction k with
  | zero => rfl
  | succ k ih =>
    rw [State.storeRegs, ih]
    rfl

theorem State.loadRegs_withUnread (k : Nat) : (s.withUnread b d).loadRegs k = (s.loadRegs k).withUnread b d := by
  induction k with
  | zero => rfl
  | succ k ih =>
    rw [State.loadRegs, ih]
    rfl

theorem State.advanceI_withUnread (x : Nibble) : (s.withUnread b d).advanceI x = (s.advanceI x).withUnread b d := by
  rw [State.advanceI_eq, State.advanceI_eq]
  rfl

theorem State.logicFlag_withUnread (x : Nibble) : (s.withUnread b d).logicFlag x = (s.logicFlag x).withUnread b d := by
  unfold State.logicFlag
  change (if s.params.quirks.vfreset then _ else _) = _
  split
  next => rfl
  next => split <;> rfl

/-- The sprite engine reads V, I, memory, the framebuffer and the parameters only. -/
theorem State.blitRows_withUnread (ox oy k : Nat) : ∀ (row : Nat) (acc : Framebuffer × Bool),
    (s.withUnread b d).blitRows ox oy k row acc = s.blitRows ox oy k row acc := by
  induction k with
  | zero => exact fun _ _ => rfl
  | succ k ih =>
    intro row acc
    rw [State.blitRows, State.blitRows, ih]
    rfl

theorem State.blit_withUnread (x y n : Nibble) : (s.withUnread b d).blit x y n = (s.blit x y n).withUnread b true := by
  have hresult : (s.withUnread b d).blitResult x y n = s.blitResult x y n := State.blitRows_withUnread s b d ..
  rw [State.blit_eq, hresult]
  rfl

theorem drw_withUnread (x y n : Nibble) : ∃ t b' d',
    exec (.drw x y n) s = .next t ∧ exec (.drw x y n) (s.withUnread b d) = .next (t.withUnread b' d') := by
  by_cases hready : DrawReady s
  · refine ⟨_, b, true, exec_drw_ready x y n hready, ?_⟩
    rw [exec_drw_ready (s := s.withUnread b d) x y n hready, State.blit_withUnread]
    rfl
  · exact ⟨_, b, d, exec_drw_not_ready x y n hready, exec_drw_not_ready (s := s.withUnread b d) x y n hready⟩

theorem ldVxK_withUnread (x : Nibble) : ∃ t b' d',
    exec (.ldVxK x) s = .next t ∧ exec (.ldVxK x) (s.withUnread b d) = .next (t.withUnread b' d') := by
  cases hl : s.latch with
  | none =>
    cases hk : s.lowestKey with
    | none =>
      have hup := s.lowestKey_none.1 hk
      exact ⟨_, b, d, exec_ldVxK_idle x hl hup, exec_ldVxK_idle (s := s.withUnread b d) x hl hup⟩
    | some k =>
      obtain ⟨hdown, hlow⟩ := State.lowestKey_some hk
      exact ⟨_, b, d, exec_ldVxK_pressed x hl hdown hlow, exec_ldVxK_pressed (s := s.withUnread b d) x hl hdown hlow⟩
  | some k =>
    cases hk : s.keyDown k with
    | true => exact ⟨_, b, d, exec_ldVxK_held x hl hk, exec_ldVxK_held (s := s.withUnread b d) x hl hk⟩
    | false => exact ⟨_, b, d, exec_ldVxK_released x hl hk, exec_ldVxK_released (s := s.withUnread b d) x hl hk⟩

/-- Every instruction answers the same from the two states, but for ST and the draw flag, which only LD ST, CLS and DRW write. -/
theorem exec_withUnread (i : Instr) : ∃ t b' d',
    exec i s = .next t ∧ exec i (s.withUnread b d) = .next (t.withUnread b' d') := by
  cases i with
  | cls => exact ⟨_, b, true, exec_cls s, exec_cls _⟩
  | ldStVx x => exact ⟨_, s.reg x, d, exec_ldStVx x s, exec_ldStVx x _⟩
  | drw x y n => exact drw_withUnread s b d x y n
  | ldVxK x => exact ldVxK_withUnread s b d x
  | ret =>
    cases hs : s.stack with
    | nil => exact ⟨_, b, d, exec_ret_empty hs, exec_ret_empty (s := s.withUnread b d) hs⟩
    | cons top rest => exact ⟨_, b, d, exec_ret_pop hs, exec_ret_pop (s := s.withUnread b d) hs⟩
  | call nnn =>
    by_cases hfull : s.params.stackDepth = some s.stack.length
    · exact ⟨_, b, d, exec_call_full nnn hfull, exec_call_full (s := s.withUnread b d) nnn hfull⟩
    · exact ⟨_, b, d, exec_call_push nnn hfull, exec_call_push (s := s.withUnread b d) nnn hfull⟩
  | orReg x y | andReg x y | xorReg x y =>
    exact ⟨_, b, d, rfl, congrArg _ (State.logicFlag_withUnread (s.setReg x _) b d x)⟩
  | ldMemVx x =>
    refine ⟨_, b, d, exec_ldMemVx x s, ?_⟩
    rw [exec_ldMemVx, State.storeRegs_withUnread, State.advanceI_withUnread]
  | ldVxMem x =>
    refine ⟨_, b, d, exec_ldVxMem x s, ?_⟩
    rw [exec_ldVxMem, State.loadRegs_withUnread, State.advanceI_withUnread]
  | seImm x kk => exact ⟨_, b, d, exec_seImm x kk s, exec_seImm x kk _⟩
  | sneImm x kk => exact ⟨_, b, d, exec_sneImm x kk s, exec_sneImm x kk _⟩
  | seReg x y => exact ⟨_, b, d, exec_seReg x y s, exec_seReg x y _⟩
  | sneReg x y => exact ⟨_, b, d, exec_sneReg x y s, exec_sneReg x y _⟩
  | skp x => exact ⟨_, b, d, exec_skp s x, exec_skp _ x⟩
  | sknp x => exact ⟨_, b, d, exec_sknp s x, exec_sknp _ x⟩
  | addIVx x => exact ⟨_, b, d, exec_addIVx s x, exec_addIVx _ x⟩
  | jp _ | jpV0 _ | ldImm _ _ | addImm _ _ | ldReg _ _ | addReg _ _ | subReg _ _ | shrReg _ _ | subnReg _ _ | shlReg _ _
  | rnd _ _ | ldVxDt _ | ldDtVx _ | ldI _ | ldFVx _ | ldBVx _ | unknown _ => exact ⟨_, b, d, rfl, rfl⟩

end Unread

/-- Settles O52: the second execution answers the first one's state with some ST and draw flag, and those two are replaced. -/
theorem soundTimerAndDrawFlagUnread : Obligations.SoundTimerAndDrawFlagUnread := by
  intro i s t u b d ht hu
  obtain ⟨t', b', d', ht', hu'⟩ := exec_withUnread s b d i
  obtain rfl := exec_unique ht ht'
  obtain rfl := exec_unique hu hu'
  rfl

end Sys2Proof.Machine

end

/-! PROOFS. Construction and the views (70_reset_and_hazards.md section 1; 10_state.md sections 10 and 11). -/

section

namespace Sys2Proof.Machine

open Sys2Proof.Claims Sys2Proof.Config

/-! ### What CONSTRUCT answers -/

/-- The CORE with these parameters before its ROM is loaded: the reset state but for the parameters (R230). -/
def State.blankCore (p : Params) : State := { State.reset with params := p }

theorem construct_of_le (p : Params) {rom : List Byte} (h : rom.length ≤ 0xE00) :
    construct p (some rom) = .next (loadRom 0x200 rom (State.blankCore p)) := if_neg (Nat.not_lt.2 h)

/-- CONSTRUCT answers a state only for a ROM that loads, and then the blank CORE with that ROM (R230, R234, R235). -/
theorem construct_cases {p : Params} {rom : Option (List Byte)} {t : State} (h : construct p rom = .next t) :
    ∃ bytes, rom = some bytes ∧ t = loadRom 0x200 bytes (State.blankCore p) := by
  cases rom with
  | none => cases h
  | some bytes =>
    refine ⟨bytes, rfl, ?_⟩
    by_cases hbig : 0xE00 < bytes.length
    · have hrefused : construct p (some bytes) = .refused .romTooLarge := if_pos hbig
      rw [hrefused] at h
      cases h
    · rw [construct_of_le p (Nat.not_lt.1 hbig)] at h
      exact (Host.Outcome.next.inj h).symm

/-- Before the ROM is loaded every byte holds its reset contents (10_state.md R39). -/
theorem State.blankCore_readByte (p : Params) {a : Nat} (h : a < memSize) :
    (State.blankCore p).readByte a = Memory.blank p.font a := congrArg (Memory.blank p.font) (Nat.mod_eq_of_lt h)

/-- A byte outside the ROM's place holds its reset contents in the constructed CORE. -/
theorem loadRom_blankCore_readByte (p : Params) {rom : List Byte} (hrom : rom.length ≤ 0xE00) {a : Nat} (ha : a < 0x1000)
    (hout : a < 0x200 ∨ 0x200 + rom.length ≤ a) :
    (loadRom 0x200 rom (State.blankCore p)).readByte a = Memory.blank p.font a := by
  rw [loadRom_readByte_ne rom 0x200 _ (by simp only [memSize]; omega) a ha hout, State.blankCore_readByte p ha]

/-! ### The obligations on CONSTRUCT -/

/-- Settles O14: the ROM is read back from its place, the font lies outside it, and the reset font is the table itself. -/
theorem constructPlacesRom : Obligations.ConstructPlacesRom := by
  refine ⟨fun p rom h => ⟨_, construct_of_le p h, ?pc, fun j hj => ?rom, fun k hk => ?font⟩, by decide⟩
  case pc =>
    rw [loadRom_eq]
    rfl
  case rom => exact loadRom_readByte rom 0x200 _ (by simp only [memSize]; omega) j hj
  case font => rw [loadRom_blankCore_readByte p h (by omega) (by omega), Memory.blank_font p.font hk]

/-- Settles O15: loading a ROM changes memory only, and a byte outside the font and the ROM is blank. -/
theorem constructResetValues : Obligations.ConstructResetValues := by
  intro p rom h
  refine ⟨_, construct_of_le p h, fun a ha hout => ?zero, ?fields⟩
  case zero => rw [loadRom_blankCore_readByte p h ha (by omega), Memory.blank_zero p.font (by omega)]
  case fields =>
    rw [loadRom_eq]
    refine ⟨fun r => ?_, rfl, rfl, rfl, rfl, Framebuffer.pixel_blank, fun k => ?_, rfl, rfl, rfl, rfl, rfl⟩
    · exact Vector.getElem_replicate r.isLt
    · exact Vector.getElem_replicate k.isLt

/-- Settles O16: no bytes and too many bytes are the two refusals of CONSTRUCT. -/
theorem constructLoadFailures : Obligations.ConstructLoadFailures := fun _ => ⟨rfl, fun _ h => if_pos h⟩

/-- Settles O18: the blank CORE has empty memory, stack and latch and a FREE draw-wait state, and loading a ROM keeps memory
canonical and the rest as it is. -/
theorem constructMeetsInv : Obligations.ConstructMeetsInv := by
  intro p rom t h
  obtain ⟨bytes, -, rfl⟩ := construct_cases h
  have hwf : (loadRom 0x200 bytes (State.blankCore p)).memWf = true := loadRom_wf bytes 0x200 _ rfl
  rw [loadRom_eq] at hwf ⊢
  exact ⟨hwf, fun n _ => Nat.zero_le n, fun _ => rfl, nofun⟩

/-- Settles O17: the reset state is what CONSTRUCT answers for no bytes, so it meets the invariant as every such state does. -/
theorem resetIsConstructedAndMeetsInv : Obligations.ResetIsConstructedAndMeetsInv :=
  ⟨rfl, constructMeetsInv resetParams (some []) State.reset rfl⟩

/-! ### The views -/

/-- A field that lies above the low part of a word is a field of the high part. -/
theorem field_above {m n start len : Nat} {hi : BitVec m} {lo : BitVec n} {r : BitVec len} (h : n ≤ start)
    (hr : hi.extractLsb' (start - n) len = r) : (hi ++ lo).extractLsb' start len = r :=
  (BitVec.extractLsb'_append_eq_of_le h).trans hr

/-- A bit is its one-bit field. -/
theorem bit_of_field {n start : Nat} {w : BitVec n} {b : Bool} (h : w.extractLsb' start 1 = BitVec.ofBool b) :
    w.getLsbD start = b := by
  have hbit := congrArg (BitVec.getLsbD · 0) h
  simpa using hbit

section Status
variable (s : State)

theorem statusView_dwstate : s.statusView.extractLsb' 0 2 = s.dwstate.code := BitVec.extractLsb'_append_eq_right

theorem statusView_latchValid : s.statusView.getLsbD 2 = s.latch.isSome :=
  bit_of_field <| field_above (by decide) BitVec.extractLsb'_append_eq_right

theorem statusView_latchKey : s.statusView.extractLsb' 3 4 = s.latch.getD 0 :=
  field_above (by decide) <| field_above (by decide) BitVec.extractLsb'_append_eq_right

theorem statusView_drawFlag : s.statusView.getLsbD 7 = s.drawFlag :=
  bit_of_field <| field_above (by decide) <| field_above (by decide) <| field_above (by decide)
    BitVec.extractLsb'_append_eq_right

theorem statusView_fault : s.statusView.extractLsb' 8 2 = s.fault.code :=
  field_above (by decide) <| field_above (by decide) <| field_above (by decide) <| field_above (by decide)
    BitVec.extractLsb'_append_eq_right

theorem statusView_reserved : s.statusView.extractLsb' 10 6 = 0#6 :=
  field_above (by decide) <| field_above (by decide) <| field_above (by decide) <| field_above (by decide)
    BitVec.extractLsb'_append_eq_left

end Status

/-- Settles O12: each field of the STATUS view is the part of the concatenation that stands there. -/
theorem statusViewLayout : Obligations.StatusViewLayout := by
  intro s rest hs
  refine ⟨step_host_setSchedule hs (by decide), s.statusView, rfl, ?dwstate, statusView_latchValid s, ?latchKey,
    statusView_drawFlag s, ?fault, statusView_reserved s⟩
  case dwstate =>
    rw [statusView_dwstate]
    cases s.dwstate <;> rfl
  case latchKey =>
    rw [statusView_latchKey]
    cases s.latch <;> rfl
  case fault =>
    rw [statusView_fault]
    cases s.fault <;> rfl

section Quirks
variable (s : State)

theorem quirksView_dw : s.quirksView.getLsbD 0 = s.params.quirks.dw := bit_of_field BitVec.extractLsb'_append_eq_right

theorem quirksView_vfreset : s.quirksView.getLsbD 1 = s.params.quirks.vfreset :=
  bit_of_field <| field_above (by decide) BitVec.extractLsb'_append_eq_right

theorem quirksView_meminc : s.quirksView.getLsbD 2 = s.params.quirks.meminc :=
  bit_of_field <| field_above (by decide) <| field_above (by decide) BitVec.extractLsb'_append_eq_right

theorem quirksView_clip : s.quirksView.getLsbD 3 = s.params.quirks.clip :=
  bit_of_field <| field_above (by decide) <| field_above (by decide) <| field_above (by decide)
    BitVec.extractLsb'_append_eq_right

theorem quirksView_shiftx : s.quirksView.getLsbD 4 = s.params.quirks.shiftx :=
  bit_of_field <| field_above (by decide) <| field_above (by decide) <| field_above (by decide) <| field_above (by decide)
    BitVec.extractLsb'_append_eq_right

theorem quirksView_jumpx : s.quirksView.getLsbD 5 = s.params.quirks.jumpx :=
  bit_of_field <| field_above (by decide) <| field_above (by decide) <| field_above (by decide) <| field_above (by decide) <|
    field_above (by decide) BitVec.extractLsb'_append_eq_right

theorem quirksView_reserved : s.quirksView.extractLsb' 6 2 = 0#2 :=
  field_above (by decide) <| field_above (by decide) <| field_above (by decide) <| field_above (by decide) <|
    field_above (by decide) BitVec.extractLsb'_append_eq_left

end Quirks

/-- Settles O57: each bit of the QUIRKS view is the boolean that stands there, and loading a ROM keeps the parameters. -/
theorem quirksViewLayout : Obligations.QuirksViewLayout := by
  refine ⟨fun s => ⟨quirksView_dw s, quirksView_vfreset s, quirksView_meminc s, quirksView_clip s, quirksView_shiftx s,
    quirksView_jumpx s, quirksView_reserved s⟩, fun p rom t h => ?_⟩
  obtain ⟨bytes, -, rfl⟩ := construct_cases h
  rw [loadRom_eq]
  rfl

end Sys2Proof.Machine

end
